-- ==== Sys2Proof/Word.lean ====
section
/-! DEFINITION. The plain value types of the SX1255 control block: bytes, frames, text and times.
Host time is a natural number of nanoseconds (assumption 4), and so are counts: never words. -/

namespace Sys2Proof

/-- A register value or one SPI word: 8 bits, unsigned (R9, R19). -/
abbrev Byte := BitVec 8

/-- A frame: the byte sequence of one transfer, byte 0 sent first (R18, R89). -/
abbrev Frame := List Byte

/-- A platform name (an SPI device path or a GPIO chip name): opaque to the block (R8). -/
abbrev Path := List Char

/-- The 10 µs inter-transfer gap (R21, R245). -/
def gapNanos : Nat := 10000

/-- The minimum reset pulse, 100 µs (R21, R246). -/
def pulseNanos : Nat := 100000

/-- The settle time after the reset pulse, 5 ms (R21, R246). -/
def settleNanos : Nat := 5000000

end Sys2Proof
end

