-- ==== Sys2Proof/Config.lean ====
section
/-! DEFINITION. The configuration parameters of R8, and the constants without a body that stand for
what the spec leaves open: the OPEN parameters and the free draws of the platform and the device. -/

namespace Sys2Proof

/-- How a platform primitive ended (R15, R113, R218, R224): done, reported failed, or never ended. -/
inductive Status where
  | ok
  | failed
  | stalled
  deriving DecidableEq, Repr, Inhabited

/-- Everything the platform and the device decide about ONE primitive: a nondeterministic input of the
block (R40, R224, R234). The block's rules put no law on any field of it. -/
structure Answer where
  /-- Did the primitive succeed, fail or stall. -/
  status : Status
  /-- The response buffer of a transfer (R95, R113); unused by the other primitives. -/
  rx : Frame
  /-- The level the platform leaves a line at, where no rule gives one (R146, R253). -/
  level : Bool
  /-- How long after its earliest start the primitive begins (R234, R244). -/
  before : Nat
  /-- How much longer than its clocking the primitive lasts (R244, R258). -/
  took : Nat
  /-- How much longer than its bound the wait after the primitive lasts (R244). -/
  after : Nat
  deriving DecidableEq, Repr, Inhabited

/-- The configuration of the block (R8): fixed for the life of the block (R32, R242). -/
structure Config where
  /-- `SPI_DEVICE`. -/
  spiDevice : Path
  /-- `SPI_SPEED_HZ`. -/
  spiSpeedHz : Nat
  /-- `GPIO_CHIP`. -/
  gpioChip : Path
  /-- `RESET_LINE`. -/
  resetLine : Nat
  /-- `TXRX_LINE`. -/
  txrxLine : Nat
  /-- `FXOSC`, in Hz. -/
  fxosc : Nat
  /-- `REG_DEFAULTS`: a register without an entry is unspecified (R60). -/
  regDefaults : List Host.Cell
  /-- `DEFAULT_TABLE`, in write order (R205). -/
  defaultTable : List Host.Cell
  /-- `SERIALIZED` (R80, R81). -/
  serialized : Bool
  /-- `DEVICE_COHERENT` (R40). -/
  deviceCoherent : Bool
  deriving DecidableEq, Repr

namespace Config

/-! OPEN parameters (92_eei_decisions.md, "Named parameters"): constants without a body, so that no
proof can see a value (assumption 13). `Config.normative` (Machine/Operands.lean) makes of them what R8 allows. -/

opaque openSpiDevice : Path

/-- One less than `SPI_SPEED_HZ`, which is above zero. -/
opaque openSpiSpeedHzLessOne : Nat

opaque openGpioChip : Path
opaque openResetLine : Nat
opaque openTxrxLine : Nat

/-- `REG_DEFAULTS` by address; `none` is unspecified (R8, R60). -/
opaque openRegDefault : Nat → Option Byte

/-- The entries of `DEFAULT_TABLE` that R205 does not fix, by number: one of the 19 registers other than STAT, which
no named operation writes (R58), and a value. -/
opaque openDefaultEntry : Nat → Fin 19 × Byte

/-- The order of `DEFAULT_TABLE`: where each entry goes among the ones before it (R205). -/
opaque openDefaultPlace : Nat → Nat

/-- The physical level of the reset line at block reset, which is any value (R237; assumption 19). -/
opaque freeResetLevel : Bool

/-- The physical level of the TX/RX line at block reset, which is any value (R237; assumption 19). -/
opaque freeTxrxLevel : Bool

/-- The free draw of the platform and the device, one for each primitive (R40; assumption 3). -/
opaque freeAnswer : Nat → Answer

/-- The free choice of the next caller: the lock has no fairness (R80), and the order of concurrent
callers' events is open (R81; assumption 9). -/
opaque freePick : Nat → Nat

/-- `FXOSC` when it is not configured: 32 MHz (R8). -/
def defaultFxosc : Nat := 32000000

end Config

end Sys2Proof
end

