-- ==== Sys2Proof/Syntax.lean ====
section
/-! DEFINITION. The operations of the block (R106, R107): one constructor of `Instr` for each row of
spec/opcode_table.json, and what a caller may present (`Call`). -/

namespace Sys2Proof

/-- The 20 device registers, in the order of the map (R33, R34, R37). -/
inductive Reg where
  | mode | frfhRx | frfmRx | frflRx | frfhTx | frfmTx | frflTx | version
  | txfe1 | txfe2 | txfe3 | txfe4 | rxfe1 | rxfe2 | rxfe3
  | ioMap | ckSel | stat | iism | digBridge
  deriving DecidableEq, Repr

/-- The operations (R106) and the six pseudo-operations (R107). An address is a natural number (R217),
a count a signed integer (R24), a dB value an exact rational (R24). -/
inductive Instr where
  -- SPI register transport (40_transport.md)
  | spiOpen
  | spiClose
  | writeRegister (addr : Nat) (value : Byte)
  | readRegister (addr : Nat)
  | burstWrite (start : Nat) (values : List Byte)
  | burstRead (start : Nat) (count : Int)
  | checkDevice
  -- GPIO line sequencer (41_gpio.md)
  | gpioOpen (chip : Path) (resetPin txRxPin : Nat)
  | reset
  | setResetPin (level : Bool)
  | getResetPin
  | setTxRxPin (level : Bool)
  | getTxRxPin
  | gpioClose
  -- frequency synthesizer (42_synthesizer.md)
  | setRxFrequency (f : Nat)
  | getRxFrequency
  | setTxFrequency (f : Nat)
  | getTxFrequency
  -- gain encoder (43_gain.md)
  | setLnaGain (g : Rat)
  | setPgaGain (g : Rat)
  | setDacGain (g : Rat)
  | setMixerGain (g : Rat)
  -- controller (44_control.md)
  | openController
  | closeController
  | setMode (m : Byte)
  | getMode
  | enableRx (on : Bool)
  | enableTx (on : Bool)
  | enablePA (on : Bool)
  | getStatus
  | getVersion
  | probe
  | setTxRxSwitch (on : Bool)
  | getTxRxSwitch
  | resetDevice
  | initializeWithDefaults
  -- pseudo-operations (R107)
  | setModeSleep
  | setModeStandby
  | setModeRx
  | setModeTx
  | setModeTxFull
  | setModeFullDuplex
  deriving DecidableEq, Repr

/-- What a caller issues: an operation, or the per-call lifecycle `scoped(op)` around one (R208). -/
inductive Call where
  | op (i : Instr)
  | scoped (i : Instr)
  deriving DecidableEq, Repr

/-- Is the operation one of the controller's (44_control.md, with R185's frequency and gain operations):
what `scoped` may hold (R208). -/
def Instr.isController : Instr → Bool
  | .spiOpen | .spiClose | .writeRegister _ _ | .readRegister _ | .burstWrite _ _ | .burstRead _ _
  | .checkDevice | .gpioOpen _ _ _ | .reset | .setResetPin _ | .getResetPin | .setTxRxPin _
  | .getTxRxPin | .gpioClose => false
  | .setRxFrequency _ | .getRxFrequency | .setTxFrequency _ | .getTxFrequency
  | .setLnaGain _ | .setPgaGain _ | .setDacGain _ | .setMixerGain _
  | .openController | .closeController | .setMode _ | .getMode
  | .enableRx _ | .enableTx _ | .enablePA _ | .getStatus | .getVersion | .probe
  | .setTxRxSwitch _ | .getTxRxSwitch | .resetDevice | .initializeWithDefaults
  | .setModeSleep | .setModeStandby | .setModeRx | .setModeTx | .setModeTxFull
  | .setModeFullDuplex => true

/-- Does the call use a component alone, outside a controller (R66, R67). -/
def Call.usedAlone : Call → Bool
  | .op i => !i.isController
  | .scoped _ => false

/-- Why the decoder rejects what it was given, by name. -/
inductive DecodeError where
  /-- Text: a character that starts no token, or a string that does not end. -/
  | badToken
  /-- Text: not of the form `op(arg, …)` (R105). -/
  | badForm
  /-- Text: no operation of R106 has this name. -/
  | unknownOperation
  /-- Text: the operands are not of the kinds the operation takes. -/
  | badOperands
  /-- Frames: no frame, or one without an address byte (R89). -/
  | shortFrame
  /-- Frames: a read frame whose dummy bytes are not 0x00 (R92, R111). -/
  | dummyNotZero
  /-- Frames: a sequence that is no operation's pattern (R108). -/
  | unknownSequence
  deriving DecidableEq, Repr

end Sys2Proof
end

