-- ==== Sys2Proof/WellFormed.lean ====
section
/-! DEFINITION. Which operations can be presented to the block, and which can be written in the notation
of R105. -/

namespace Sys2Proof

/-- The largest FrequencyHz value (R9, R19). -/
def maxHz : Nat := 4294967295

/-- An operation that can be presented: a frequency operand is a 32-bit unsigned value (R24). Every other
operand type admits only what R24 admits. -/
def Instr.wellFormed : Instr → Bool
  | .setRxFrequency f => decide (f ≤ maxHz)
  | .setTxFrequency f => decide (f ≤ maxHz)
  | _ => true

/-- A call is well-formed when its operation is, and `scoped` holds a controller operation (R208). -/
def Call.wellFormed : Call → Bool
  | .op i => i.wellFormed
  | .scoped i => i.wellFormed && i.isController

/-- The number of decimal places that write a rational exactly, where there is one. -/
def decimalPlaces (g : Rat) : Option Nat :=
  (List.range (g.den + 1)).find? fun k => 10 ^ k % g.den == 0

/-- An operation the notation of R105 can write: a dB literal is a finite decimal, and a chip name stands
between double quotes on one line. -/
def Instr.writable : Instr → Bool
  | .setLnaGain g => (decimalPlaces g).isSome
  | .setPgaGain g => (decimalPlaces g).isSome
  | .setDacGain g => (decimalPlaces g).isSome
  | .setMixerGain g => (decimalPlaces g).isSome
  | .gpioOpen chip _ _ => chip.all fun c => c != '"' && c != '\n'
  | _ => true

end Sys2Proof
end

