-- ==== Sys2Proof/Machine/Operands.lean ====
section
/-! DEFINITION. Operand checks and encoders: the register map, the address range, field packing, the
tuning word, and the four gain encoders. All pure functions. -/

namespace Sys2Proof

/-! ### The register map (R33, R34) -/

/-- The address of a register, in listing order from 0x00 (R33, R34). -/
def Reg.addr : Reg → Nat
  | .mode => 0x00 | .frfhRx => 0x01 | .frfmRx => 0x02 | .frflRx => 0x03
  | .frfhTx => 0x04 | .frfmTx => 0x05 | .frflTx => 0x06 | .version => 0x07
  | .txfe1 => 0x08 | .txfe2 => 0x09 | .txfe3 => 0x0A | .txfe4 => 0x0B
  | .rxfe1 => 0x0C | .rxfe2 => 0x0D | .rxfe3 => 0x0E | .ioMap => 0x0F
  | .ckSel => 0x10 | .stat => 0x11 | .iism => 0x12 | .digBridge => 0x13

/-- The map's rows in listing order, each register with DOC's spelling of its name (R33, R34). -/
def Reg.map : List (Reg × String) :=
  [(.mode, "MODE"), (.frfhRx, "FRFH_RX"), (.frfmRx, "FRFM_RX"), (.frflRx, "FRFL_RX"),
   (.frfhTx, "FRFH_TX"), (.frfmTx, "FRFM_TX"), (.frflTx, "FRFL_TX"), (.version, "VERSION"),
   (.txfe1, "TXFE1"), (.txfe2, "TXFE2"), (.txfe3, "TXFE3"), (.txfe4, "TXFE4"),
   (.rxfe1, "RXFE1"), (.rxfe2, "RXFE2"), (.rxfe3, "RXFE3"), (.ioMap, "IO_MAP"),
   (.ckSel, "CK_SEL"), (.stat, "STAT"), (.iism, "IISM"), (.digBridge, "DIG_BRIDGE")]

/-- The register of a name (R37, R107). -/
def Reg.ofName (name : String) : Option Reg :=
  (Reg.map.find? fun row => row.2 == name).map Prod.fst

/-- The highest register address (R9, R69). -/
def lastAddr : Nat := 0x13

/-- `checkRange(s, n)`, for `n ≥ 1`: the first and the last address lie in [0x00, 0x13] (R116). -/
def inRange (start n : Nat) : Bool :=
  decide (start ≤ lastAddr) && decide (start + n - 1 ≤ lastAddr)

/-! ### Field packing (R98 to R101) -/

/-- `insert(r, m, sh, c)`: the one field update (R98). -/
def insertField (r mask : Byte) (shift code : Nat) : Byte :=
  (r &&& ~~~mask) ||| ((BitVec.ofNat 8 code <<< shift) &&& mask)

/-- A gain field: its register, mask and shift (R101). -/
structure Field where
  reg : Reg
  mask : Byte
  shift : Nat
  deriving DecidableEq, Repr

/-- LNA_GAIN: RXFE1 bits 7:5 (R54, R101). -/
def lnaField : Field := ⟨.rxfe1, 0xE0, 5⟩

/-- PGA_GAIN: RXFE1 bits 4:1 (R54, R101). -/
def pgaField : Field := ⟨.rxfe1, 0x1E, 1⟩

/-- DAC_GAIN: TXFE1 bits 6:4 (R50, R101). -/
def dacField : Field := ⟨.txfe1, 0x70, 4⟩

/-- MIXER_GAIN: TXFE1 bits 3:0 (R50, R101). -/
def mixerField : Field := ⟨.txfe1, 0x0F, 0⟩

/-- The code a register byte holds in a field (the layouts of R50 and R54). -/
def Field.extract (fd : Field) (r : Byte) : Nat := ((r &&& fd.mask) >>> fd.shift).toNat

/-- The byte with the field set to a code (R98, R101). -/
def Field.insert (fd : Field) (r : Byte) (code : Nat) : Byte := insertField r fd.mask fd.shift code

/-! ### The tuning word (R46, R47, R100, R149 to R152) -/

/-- The valid range of a requested frequency, both bounds included (R149). -/
def validHz (f : Nat) : Bool := decide (400000000 ≤ f) && decide (f ≤ 510000000)

/-- The legal range of `FXOSC` (R152). -/
def legalFxosc (fxosc : Nat) : Bool := decide (31875001 ≤ fxosc) && decide (fxosc ≤ 268435471)

/-- `Frf(f)`, in R150's integer form. -/
def tuningWord (fxosc f : Nat) : Nat := (f * 2 ^ 21 + fxosc) / (2 * fxosc)

/-- `Freq(w)`, in R151's integer form. -/
def wordHz (fxosc w : Nat) : Nat := (fxosc * w + 2 ^ 19) / 2 ^ 20

/-- MSB = Frf[23:16] (R100). -/
def wordMsb (w : Nat) : Byte := BitVec.ofNat 8 (w >>> 16)

/-- MID = Frf[15:8] (R100). -/
def wordMid (w : Nat) : Byte := BitVec.ofNat 8 (w >>> 8)

/-- LSB = Frf[7:0] (R100). -/
def wordLsb (w : Nat) : Byte := BitVec.ofNat 8 w

/-- The word of its three bytes, big-endian (R72, R100). -/
def joinWord (h m l : Byte) : Nat := h.toNat <<< 16 ||| m.toNat <<< 8 ||| l.toNat

/-! ### dB values to codes (43_gain.md) -/

/-- `clamp(x, lo, hi)`, both bounds included (R14). -/
def clamp (x lo hi : Rat) : Rat := if x < lo then lo else if hi < x then hi else x

/-- `round(x) = floor(x + 1/2)`: ties round up (R13). -/
def roundHalfUp (x : Rat) : Int := (x + 1 / 2).floor

/-- The breakpoints of the LNA ladder with the code above each, highest first (R165, R180). -/
def lnaTable : List (Rat × Nat) := [(45, 1), (39, 2), (30, 3), (18, 4), (6, 5)]

/-- `encodeLna(g)`: the first breakpoint below `g` gives the code, and 6 is the last row (R165). -/
def encodeLna (g : Rat) : Nat :=
  match lnaTable.find? fun row => decide (row.1 < g) with
  | some row => row.2
  | none => 6

/-- `encodePga(g) = floor(clamp(g, 0, 30) / 2)` (R167). -/
def encodePga (g : Rat) : Nat := (clamp g 0 30 / 2).floor.toNat

/-- The exact dB values of the DAC with their codes (R169, R180). -/
def dacTable : List (Rat × Nat) := [(0, 3), (-3, 2), (-6, 1), (-9, 0)]

/-- `encodeDac(g)`: an exact match, and the −3 dB code for any other value (R169). -/
def encodeDac (g : Rat) : Nat :=
  match dacTable.find? fun row => decide (row.1 = g) with
  | some row => row.2
  | none => 2

/-- `encodeMixer(g) = round((clamp(g, −37.5, −7.5) + 37.5) / 2)` (R171). -/
def encodeMixer (g : Rat) : Nat :=
  (roundHalfUp ((clamp g (-75 / 2) (-15 / 2) + 75 / 2) / 2)).toNat

/-! ### The legal configurations (R8, R152, R205) -/

/-- The six entries of `DEFAULT_TABLE` that R205 fixes: 434 MHz in the RX and the TX word. -/
def tuningDefaults (fxosc : Nat) : List Host.Cell :=
  let w := tuningWord fxosc 434000000
  [(Reg.frfhRx.addr, wordMsb w), (Reg.frfmRx.addr, wordMid w), (Reg.frflRx.addr, wordLsb w),
   (Reg.frfhTx.addr, wordMsb w), (Reg.frfmTx.addr, wordMid w), (Reg.frflTx.addr, wordLsb w)]

/-- `DEFAULT_TABLE` holds exactly 17 pairs, the six of 434 MHz, and no address outside 0x00–0x13 (R205), nor that of
STAT, which no named operation writes (R58). -/
def legalDefaultTable (fxosc : Nat) (table : List Host.Cell) : Bool :=
  table.length == 17 && (tuningDefaults fxosc).all (fun e => table.contains e)
    && table.all fun e => decide (e.1 ≤ lastAddr) && e.1 != Reg.stat.addr

/-- `REG_DEFAULTS` is a map from addresses in [0x00, 0x13] to bytes, in rising order (R8, R60). -/
def legalRegDefaults (m : List Host.Cell) : Bool :=
  decide ((m.map Prod.fst).Pairwise (· < ·)) && m.all fun e => decide (e.1 ≤ lastAddr)

/-- A configuration R8 allows. -/
def Config.legal (c : Config) : Bool :=
  legalFxosc c.fxosc && decide (0 < c.spiSpeedHz) && legalRegDefaults c.regDefaults
    && legalDefaultTable c.fxosc c.defaultTable

/-! ### The configuration of the normative model (R8) -/

/-- A table put in a free order: entry `n` goes to a free place among the entries before it, so every order
is one. -/
def shuffle (place : Nat → Nat) : Nat → List Host.Cell → List Host.Cell → List Host.Cell
  | _, [], done => done
  | n, e :: rest, done => shuffle place (n + 1) rest (done.insertIdx (place n % (done.length + 1)) e)

/-- The addresses of the 19 registers other than STAT, in rising order. -/
def notStat (n : Fin 19) : Nat := if n.val < Reg.stat.addr then n.val else n.val + 1

/-- An entry of `DEFAULT_TABLE` that R205 does not fix. -/
def openEntry (n : Nat) : Host.Cell := (notStat (Config.openDefaultEntry n).1, (Config.openDefaultEntry n).2)

/-- `DEFAULT_TABLE` as far as R205 fixes it: the six entries of 434 MHz, 11 open ones, and an open order. -/
def openDefaultTable (fxosc : Nat) : List Host.Cell :=
  shuffle Config.openDefaultPlace 0
    (tuningDefaults fxosc ++ (List.range 11).map openEntry) []

/-- `REG_DEFAULTS`, open for every register. -/
def openRegDefaults : List Host.Cell :=
  (List.range 20).filterMap fun a => (Config.openRegDefault a).map fun v => (a, v)

/-- The configuration of the normative model: `FXOSC` at its default, `SERIALIZED = true`,
`DEVICE_COHERENT = false`, and every OPEN parameter open within what R8 and R205 fix (assumption 13). -/
def Config.normative : Config where
  spiDevice := openSpiDevice
  spiSpeedHz := openSpiSpeedHzLessOne + 1
  gpioChip := openGpioChip
  resetLine := openResetLine
  txrxLine := openTxrxLine
  fxosc := defaultFxosc
  regDefaults := openRegDefaults
  defaultTable := openDefaultTable defaultFxosc
  serialized := true
  deviceCoherent := false

end Sys2Proof
end

