-- ==== Sys2Proof/Machine/Flags.lean ====
section
/-! DEFINITION. The MODE bits, the STAT flags and the VERSION fields: the block's only flag computations
(R61). -/

namespace Sys2Proof

/-! ### MODE (R41, R42, R99) -/

/-- The four enable bits of MODE. -/
inductive ModeBit where
  | ref
  | rx
  | tx
  | driver
  deriving DecidableEq, Repr

/-- The position of an enable bit (R41). -/
def ModeBit.index : ModeBit → Nat
  | .ref => 0
  | .rx => 1
  | .tx => 2
  | .driver => 3

/-- The mask of an enable bit (R41). -/
def ModeBit.mask (b : ModeBit) : Byte := 1#8 <<< b.index

/-- `setBit(r, b)` (R99). -/
def setModeBit (r : Byte) (b : ModeBit) : Byte := r ||| b.mask

/-- `clearBit(r, b)` (R99). -/
def clearModeBit (r : Byte) (b : ModeBit) : Byte := r &&& ~~~b.mask

/-- The byte `enableBit(b, on)` writes back for the byte read (R190). -/
def putModeBit (r : Byte) (b : ModeBit) (on : Bool) : Byte :=
  if on then setModeBit r b else clearModeBit r b

/-- The six named composite modes (R42). -/
inductive NamedMode where
  | sleep
  | standby
  | rx
  | tx
  | txFull
  | fullDuplex
  deriving DecidableEq, Repr

/-- The bits a named mode is the union of (R42). -/
def NamedMode.bits : NamedMode → List ModeBit
  | .sleep => []
  | .standby => [.ref]
  | .rx => [.ref, .rx]
  | .tx => [.ref, .tx]
  | .txFull => [.ref, .tx, .driver]
  | .fullDuplex => [.ref, .rx, .tx, .driver]

/-- The value of a named mode (R42, R107). -/
def NamedMode.value (m : NamedMode) : Byte := m.bits.foldl setModeBit 0

/-! ### STAT (R57, R102, R197) -/

/-- The status record of R197. -/
structure StatusFlags where
  eol : Bool
  xoscReady : Bool
  rxPllLock : Bool
  txPllLock : Bool
  deriving DecidableEq, Repr

/-- `flag = (stat & mask) != 0` (R102). -/
def statFlag (s mask : Byte) : Bool := s &&& mask != 0

/-- `decodeStatus(s)`: bits 7:4 are ignored (R57, R197). -/
def decodeStatus (s : Byte) : StatusFlags where
  eol := statFlag s 0x08
  xoscReady := statFlag s 0x04
  rxPllLock := statFlag s 0x02
  txPllLock := statFlag s 0x01

/-! ### VERSION (R48, R103, R200) -/

/-- A decimal digit. -/
def digitChar (d : Nat) : Char := Char.ofNat ('0'.toNat + d)

/-- The decimal digits of a number, most significant first, for at most `fuel` digits. -/
def decimalDigits : Nat → Nat → List Char → List Char
  | 0, _, acc => acc
  | fuel + 1, n, acc =>
    if n < 10 then digitChar n :: acc
    else decimalDigits fuel (n / 10) (digitChar (n % 10) :: acc)

/-- The decimal spelling of a number. -/
def decimal (n : Nat) : List Char := decimalDigits (n + 1) n []

/-- The suffix of a minor index: none for 0, else the letter `'A' + minor − 1` (R200). -/
def versionSuffix (minor : Nat) : List Char :=
  if minor = 0 then [] else [Char.ofNat ('A'.toNat + minor - 1)]

/-- `decodeVersion(v)`: "V", the major in decimal, then the suffix (R200). -/
def decodeVersion (v : Byte) : List Char :=
  'V' :: decimal (v >>> 4).toNat ++ versionSuffix (v &&& 0x0F).toNat

end Sys2Proof
end

