-- ==== Sys2Proof/Decode.lean ====
section
/-! DEFINITION. The two encodings of an operation and their decoders: the SPI frame pattern it puts on the
bus (30_encoding.md sections 1 and 4; `framesOf`, `decodeFrames`), and the operation-call notation
(R105 to R107; `encodeText`, `decodeText`). A frame pattern is not one operation's alone: assumption 2
says which operation each sequence is read as. -/

namespace Sys2Proof

/-! ### Frames (R89 to R97) -/

/-- The address byte: the W flag in bit 7, the address in bits 6:0 (R90). -/
def addressByte (write : Bool) (a : Nat) : Byte :=
  if write then BitVec.ofNat 8 a ||| 0x80 else BitVec.ofNat 8 a &&& 0x7F

/-- `[a | 0x80, v]` (R91). -/
def writeFrame (a : Nat) (v : Byte) : Frame := [addressByte true a, v]

/-- `[a & 0x7F, 0x00]` (R92). -/
def readFrame (a : Nat) : Frame := [addressByte false a, 0]

/-- `[s | 0x80] ++ values` (R93). -/
def burstWriteFrame (s : Nat) (vs : List Byte) : Frame := addressByte true s :: vs

/-- `[s & 0x7F]` and `n` dummy bytes (R94, R111). -/
def burstReadFrame (s n : Nat) : Frame := addressByte false s :: List.replicate n 0

/-- Is the W flag set (R90). -/
def isWrite (addr : Byte) : Bool := addr.getLsbD 7

/-- The address an address byte carries (R90). -/
def frameAddr (addr : Byte) : Nat := (addr &&& 0x7F).toNat

/-- The bits of a frame in the order they go on the wire: byte 0 first, each byte most significant bit
first (R10, R73). -/
def wireBits (f : Frame) : List Bool :=
  f.flatMap fun b => (List.range 8).map fun k => b.getLsbD (7 - k)

/-- A frame the block may send: at least one data byte, and every register it reaches in [0x00, 0x13]
(R89, R97). -/
def legalFrame : Frame → Bool
  | b :: d :: ds => inRange (frameAddr b) (ds.length + 1) &&
      (isWrite b || (d :: ds).all fun x => x == 0)
  | _ => false

/-! ### The frame pattern of each operation (R108) -/

/-- `W(a, ·)` three times: a tuning word, most significant byte at the lowest address (R100, R109). -/
def wordFrames (first : Reg) (w : Nat) : List Frame :=
  [writeFrame first.addr (wordMsb w), writeFrame (first.addr + 1) (wordMid w),
   writeFrame (first.addr + 2) (wordLsb w)]

/-- `R(a)` three times (R109). -/
def wordReads (first : Reg) : List Frame :=
  [readFrame first.addr, readFrame (first.addr + 1), readFrame (first.addr + 2)]

/-- `R(a)`, then `W(a, r')` (R108). -/
def rmwFrames (a : Reg) (r' : Byte) : List Frame := [readFrame a.addr, writeFrame a.addr r']

/-- The encoder to frames: the sequence an accepted operation emits, where `r` is the byte its
read-modify-write reads (R108). -/
def framesOf (fxosc : Nat) (table : List Host.Cell) (r : Byte) : Instr → List Frame
  | .writeRegister a v => [writeFrame a v]
  | .readRegister a => [readFrame a]
  | .burstWrite s vs => [burstWriteFrame s vs]
  | .burstRead s n => [burstReadFrame s n.toNat]
  | .checkDevice => [readFrame Reg.version.addr]
  | .probe => [readFrame Reg.version.addr]
  | .getVersion => [readFrame Reg.version.addr]
  | .setRxFrequency f => wordFrames .frfhRx (tuningWord fxosc f)
  | .getRxFrequency => wordReads .frfhRx
  | .setTxFrequency f => wordFrames .frfhTx (tuningWord fxosc f)
  | .getTxFrequency => wordReads .frfhTx
  | .setMode m => [writeFrame Reg.mode.addr m]
  | .setModeSleep => [writeFrame Reg.mode.addr NamedMode.sleep.value]
  | .setModeStandby => [writeFrame Reg.mode.addr NamedMode.standby.value]
  | .setModeRx => [writeFrame Reg.mode.addr NamedMode.rx.value]
  | .setModeTx => [writeFrame Reg.mode.addr NamedMode.tx.value]
  | .setModeTxFull => [writeFrame Reg.mode.addr NamedMode.txFull.value]
  | .setModeFullDuplex => [writeFrame Reg.mode.addr NamedMode.fullDuplex.value]
  | .getMode => [readFrame Reg.mode.addr]
  | .enableRx on => rmwFrames .mode (putModeBit r .rx on)
  | .enableTx on => rmwFrames .mode (putModeBit r .tx on)
  | .enablePA on => rmwFrames .mode (putModeBit r .driver on)
  | .setLnaGain g => rmwFrames .rxfe1 (lnaField.insert r (encodeLna g))
  | .setPgaGain g => rmwFrames .rxfe1 (pgaField.insert r (encodePga g))
  | .setDacGain g => rmwFrames .txfe1 (dacField.insert r (encodeDac g))
  | .setMixerGain g => rmwFrames .txfe1 (mixerField.insert r (encodeMixer g))
  | .getStatus => [readFrame Reg.stat.addr]
  | .initializeWithDefaults => table.map fun e => writeFrame e.1 e.2
  | .spiOpen | .spiClose | .gpioOpen _ _ _ | .reset | .setResetPin _ | .getResetPin
  | .setTxRxPin _ | .getTxRxPin | .gpioClose | .openController | .closeController
  | .setTxRxSwitch _ | .getTxRxSwitch | .resetDevice => []

/-! ### The decoder of frame patterns -/

/-- A dB value with a given LNA code: the highest of its row, and 46 for code 1 (R165). -/
def lnaDb : Nat → Option Rat
  | 1 => some 46
  | 2 => some 45
  | 3 => some 39
  | 4 => some 30
  | 5 => some 18
  | 6 => some 6
  | _ => none

/-- A write of MODE, read as the named mode where there is one (R107; assumption 2). -/
def modeWrite (m : Byte) : Instr :=
  if m = NamedMode.sleep.value then .setModeSleep
  else if m = NamedMode.standby.value then .setModeStandby
  else if m = NamedMode.rx.value then .setModeRx
  else if m = NamedMode.tx.value then .setModeTx
  else if m = NamedMode.txFull.value then .setModeTxFull
  else if m = NamedMode.fullDuplex.value then .setModeFullDuplex
  else .setMode m

/-- The write of RXFE1 after its read: an LNA setting where the LNA code is one the encoder makes, else a
PGA setting (R101; assumption 2). -/
def rxfe1Write (r' : Byte) : Instr :=
  match lnaDb (lnaField.extract r') with
  | some g => .setLnaGain g
  | none => .setPgaGain (2 * pgaField.extract r' : Nat)

/-- The write of TXFE1 after its read: a DAC setting where the DAC code is one the encoder makes, else a
mixer setting (R101; assumption 2). -/
def txfe1Write (r' : Byte) : Instr :=
  if dacField.extract r' ≤ 3 then .setDacGain (3 * (dacField.extract r' : Rat) - 9)
  else .setMixerGain (2 * (mixerField.extract r' : Rat) - 75 / 2)

/-- The data byte of a later frame of a pattern, which has the address byte `b0`. An operand word of zeros
stands for a frame whose bits are not given (assumption 2). -/
def laterByte (b0 : Byte) : Frame → Option Byte
  | [b, d] => if b = b0 ∨ (b = 0 ∧ d = 0) then some d else none
  | _ => none

/-- The tuning word of three write frames, by the data of the first and the two later frames. -/
def laterWord (first : Reg) (d : Byte) : List Frame → Option Nat
  | [f1, f2] =>
    match laterByte (addressByte true (first.addr + 1)) f1,
        laterByte (addressByte true (first.addr + 2)) f2 with
    | some m, some l => some (joinWord d m l)
    | _, _ => none
  | _ => none

/-- Do the two later frames of a read-back read the middle and the low byte. -/
def laterReads (first : Reg) : List Frame → Bool
  | [f1, f2] => laterByte (addressByte false (first.addr + 1)) f1 == some 0
      && laterByte (addressByte false (first.addr + 2)) f2 == some 0
  | _ => false

/-- A pattern whose first frame is `W(a, d)`. -/
def decodeWrite (fxosc a : Nat) (d : Byte) (rest : List Frame) : Except DecodeError Instr :=
  if rest = [] then
    .ok (if a = Reg.mode.addr then modeWrite d else .writeRegister a d)
  else if a = Reg.frfhRx.addr then
    match laterWord .frfhRx d rest with
    | some w => .ok (.setRxFrequency (wordHz fxosc w))
    | none => .error .unknownSequence
  else if a = Reg.frfhTx.addr then
    match laterWord .frfhTx d rest with
    | some w => .ok (.setTxFrequency (wordHz fxosc w))
    | none => .error .unknownSequence
  else .error .unknownSequence

/-- A pattern whose first frame is `R(a)`. -/
def decodeRead (a : Nat) (rest : List Frame) : Except DecodeError Instr :=
  match rest with
  | [] =>
    .ok (if a = Reg.mode.addr then .getMode
      else if a = Reg.version.addr then .checkDevice
      else if a = Reg.stat.addr then .getStatus
      else .readRegister a)
  | [f] =>
    match laterByte (addressByte true a) f with
    | none => .error .unknownSequence
    | some r' =>
      if a = Reg.mode.addr then .ok (.enableRx (r'.getLsbD ModeBit.rx.index))
      else if a = Reg.rxfe1.addr then .ok (rxfe1Write r')
      else if a = Reg.txfe1.addr then .ok (txfe1Write r')
      else .error .unknownSequence
  | _ =>
    if a = Reg.frfhRx.addr && laterReads .frfhRx rest then .ok .getRxFrequency
    else if a = Reg.frfhTx.addr && laterReads .frfhTx rest then .ok .getTxFrequency
    else .error .unknownSequence

/-- The decoder of frame patterns: total, rejecting by name. The configuration is `FXOSC`, with which a
tuning word is read, and `DEFAULT_TABLE`. A frame that the block never sends, to a reserved address or without data
bytes, stands for the access that would need it, whose meaning raises `InvalidArgument` (R97, R120, R121). -/
def decodeFrames (fxosc : Nat) (table : List Host.Cell) (fs : List Frame) :
    Except DecodeError Instr :=
  if fs.length = 17 then
    if fs = table.map fun e => writeFrame e.1 e.2 then .ok .initializeWithDefaults
    else .error .unknownSequence
  else
    match fs with
    | (b0 :: ds) :: rest =>
      if !isWrite b0 && !(ds.all fun x => x == 0) then .error .dummyNotZero
      else match ds with
        | [d] =>
          if isWrite b0 then decodeWrite fxosc (frameAddr b0) d rest else decodeRead (frameAddr b0) rest
        | _ =>
          if rest ≠ [] then .error .unknownSequence
          else if isWrite b0 then .ok (.burstWrite (frameAddr b0) ds)
          else .ok (.burstRead (frameAddr b0) ds.length)
    | _ => .error .shortFrame

/-! ### Table words -/

/-- How many frames the most specific row of the opcode table has that the first frame begins. -/
def patternLength (b0 : Byte) : Nat :=
  if frameAddr b0 = Reg.frfhRx.addr ∨ frameAddr b0 = Reg.frfhTx.addr then 3
  else if !isWrite b0 && (frameAddr b0 = Reg.rxfe1.addr || frameAddr b0 = Reg.txfe1.addr) then 2
  else 1

/-- Word `k` of a table word as a frame: 16-bit words, the first in bits 15:0, its address byte the high
byte (the reader's numbering of spec/opcode_table.json). -/
def tableFrame (w k : Nat) : Frame :=
  [BitVec.ofNat 8 (w >>> (16 * k + 8)), BitVec.ofNat 8 (w >>> (16 * k))]

/-- The frames of a table word of `nbits` bits, with operand words of zeros up to the pattern's length. -/
def tableFrames (nbits w : Nat) : List Frame :=
  let w' := w % 2 ^ nbits
  let given := (nbits + 15) / 16
  (List.range (max given (patternLength (BitVec.ofNat 8 (w' >>> 8))))).map (tableFrame w')

/-- The instruction the frame decoder reads from a word of the opcode table, at the default `FXOSC`. -/
def decodeTableWord (nbits w : Nat) : Option Instr :=
  match decodeFrames Config.defaultFxosc [] (tableFrames nbits w) with
  | .ok i => some i
  | .error _ => none

/-! ### The notation: words and literals (R105) -/

/-- The tokens of a line. A word is a run of letters, digits, `_`, `.`, `-` and `+`. -/
inductive Token where
  | word (w : List Char)
  | str (s : List Char)
  | lpar
  | rpar
  | lbrack
  | rbrack
  | comma
  deriving DecidableEq, Repr

/-- A character of a word. -/
def isWordChar (c : Char) : Bool := c.isAlphanum || c == '_' || c == '.' || c == '-' || c == '+'

/-- A token of one character. -/
def punctuation (c : Char) : Option Token :=
  if c = '(' then some .lpar
  else if c = ')' then some .rpar
  else if c = '[' then some .lbrack
  else if c = ']' then some .rbrack
  else if c = ',' then some .comma
  else none

/-- A pending word, ended (the characters are gathered last first). -/
def endWord (w : List Char) (ts : List Token) : List Token :=
  if w = [] then ts else .word w.reverse :: ts

/-- The tokens of a line: `word` gathers a word, `str` a string between double quotes, and a comment runs
from `;` to the end of the line (R105). -/
def lex : (word : List Char) → (str : Option (List Char)) → List Char → Option (List Token)
  | w, none, [] => some (endWord w [])
  | _, some _, [] => none
  | w, some s, c :: cs =>
    if c = '"' then (lex w none cs).map fun ts => .str s.reverse :: ts
    else lex w (some (c :: s)) cs
  | w, none, c :: cs =>
    if c = ';' then some (endWord w [])
    else if isWordChar c then lex (c :: w) none cs
    else if c = '"' then (lex [] (some []) cs).map (endWord w)
    else if c = ' ' ∨ c = '\t' then (lex [] none cs).map (endWord w)
    else match punctuation c with
      | some t => (lex [] none cs).map fun ts => endWord w (t :: ts)
      | none => none

/-- The value of a digit in a base up to 16. -/
def digitValue (base : Nat) (c : Char) : Option Nat :=
  let v := if '0' ≤ c ∧ c ≤ '9' then c.toNat - '0'.toNat
    else if 'a' ≤ c ∧ c ≤ 'f' then c.toNat - 'a'.toNat + 10
    else if 'A' ≤ c ∧ c ≤ 'F' then c.toNat - 'A'.toNat + 10
    else 16
  if v < base then some v else none

/-- The value of a run of digits. -/
def digitsValue (base : Nat) : (acc : Nat) → List Char → Option Nat
  | acc, [] => some acc
  | acc, c :: cs =>
    match digitValue base c with
    | some v => digitsValue base (acc * base + v) cs
    | none => none

/-- An unsigned integer literal: decimal, or hexadecimal after `0x` (R105). -/
def parseNat : List Char → Option Nat
  | '0' :: 'x' :: c :: cs => digitsValue 16 0 (c :: cs)
  | c :: cs => digitsValue 10 0 (c :: cs)
  | [] => none

/-- An Hz literal: an integer in which `_` may separate digits (R105; not first, assumption 25). -/
def parseHz (w : List Char) : Option Nat :=
  if w.head? = some '_' then none else parseNat (w.filter (· != '_'))

/-- A signed integer literal. -/
def parseInt : List Char → Option Int
  | '-' :: cs => (parseNat cs).map fun n => -(n : Int)
  | cs => (parseNat cs).map fun n => (n : Int)

/-- A byte literal. -/
def parseByte (w : List Char) : Option Byte :=
  match parseNat w with
  | some n => if n < 256 then some (BitVec.ofNat 8 n) else none
  | none => none

/-- A list of byte literals. -/
def parseBytes : List (List Char) → Option (List Byte)
  | [] => some []
  | w :: ws =>
    match parseByte w, parseBytes ws with
    | some b, some bs => some (b :: bs)
    | _, _ => none

/-- A Boolean literal. -/
def parseBool (w : List Char) : Option Bool :=
  if w = "true".toList then some true else if w = "false".toList then some false else none

/-- An unsigned decimal literal as an exact rational. A point has a digit on both sides of it, so `.5` and `5.` are
no literals (assumption 25). -/
def parseUnsignedDecimal (w : List Char) : Option Rat :=
  match w.span (· != '.') with
  | (whole, []) => if whole = [] then none else (digitsValue 10 0 whole).map fun n => (n : Rat)
  | (whole, _ :: frac) =>
    if whole = [] ∨ frac = [] then none
    else (digitsValue 10 0 (whole ++ frac)).map fun n => mkRat n (10 ^ frac.length)

/-- A dB literal: a signed decimal that stands for an exact rational (R105). -/
def parseDb : List Char → Option Rat
  | '-' :: cs => (parseUnsignedDecimal cs).map fun g => -g
  | '+' :: cs => parseUnsignedDecimal cs
  | cs => parseUnsignedDecimal cs

/-- A register address: an integer, or a register's name (R105, R107). -/
def parseAddr (w : List Char) : Option Nat :=
  match Reg.ofName (String.ofList w) with
  | some r => some r.addr
  | none => parseNat w

/-! ### The notation: calls -/

/-- An operand as written. -/
inductive Arg where
  | word (w : List Char)
  | str (s : List Char)
  | list (ws : List (List Char))
  deriving DecidableEq, Repr

/-- The words of a byte list up to its `]`, and the tokens after it; a separator stands between two words. -/
def parseList : List Token → Option (List (List Char) × List Token)
  | .rbrack :: ts => some ([], ts)
  | .word w :: .rbrack :: ts => some ([w], ts)
  | .word w :: .comma :: .word w' :: ts =>
    match parseList (.word w' :: ts) with
    | some (ws, rest) => some (w :: ws, rest)
    | none => none
  | _ => none

/-- One operand and the tokens after it. -/
def parseArg : List Token → Option (Arg × List Token)
  | .word w :: ts => some (.word w, ts)
  | .str s :: ts => some (.str s, ts)
  | .lbrack :: ts => (parseList ts).map fun p => (.list p.1, p.2)
  | _ => none

/-- The operands up to the `)` that ends the line, with `fuel` at least their number. -/
def parseArgs : (fuel : Nat) → List Token → Option (List Arg)
  | 0, _ => none
  | fuel + 1, ts =>
    match parseArg ts with
    | some (a, [.rpar]) => some [a]
    | some (a, .comma :: ts') => (parseArgs fuel ts').map fun as => a :: as
    | _ => none

/-- An operation applied to its operands as written (R105 to R107). -/
def buildInstr (op : String) (args : List Arg) : Except DecodeError Instr :=
  let ofOption (o : Option Instr) : Except DecodeError Instr :=
    match o with
    | some i => .ok i
    | none => .error .badOperands
  let nullary (i : Instr) : Except DecodeError Instr :=
    if args = [] then .ok i else .error .badOperands
  let bool (k : Bool → Instr) : Except DecodeError Instr :=
    match args with
    | [.word w] => ofOption ((parseBool w).map k)
    | _ => .error .badOperands
  let hz (k : Nat → Instr) : Except DecodeError Instr :=
    match args with
    | [.word w] => ofOption ((parseHz w).map k)
    | _ => .error .badOperands
  let db (k : Rat → Instr) : Except DecodeError Instr :=
    match args with
    | [.word w] => ofOption ((parseDb w).map k)
    | _ => .error .badOperands
  match op with
  | "spiOpen" => nullary .spiOpen
  | "spiClose" => nullary .spiClose
  | "writeRegister" =>
    match args with
    | [.word a, .word v] =>
      match parseAddr a, parseByte v with
      | some a, some v => .ok (.writeRegister a v)
      | _, _ => .error .badOperands
    | _ => .error .badOperands
  | "readRegister" =>
    match args with
    | [.word a] => ofOption ((parseAddr a).map .readRegister)
    | _ => .error .badOperands
  | "burstWrite" =>
    match args with
    | [.word s, .list vs] =>
      match parseAddr s, parseBytes vs with
      | some s, some vs => .ok (.burstWrite s vs)
      | _, _ => .error .badOperands
    | _ => .error .badOperands
  | "burstRead" =>
    match args with
    | [.word s, .word n] =>
      match parseAddr s, parseInt n with
      | some s, some n => .ok (.burstRead s n)
      | _, _ => .error .badOperands
    | _ => .error .badOperands
  | "checkDevice" => nullary .checkDevice
  | "gpioOpen" =>
    match args with
    | [.str c, .word r, .word t] =>
      match parseNat r, parseNat t with
      | some r, some t => .ok (.gpioOpen c r t)
      | _, _ => .error .badOperands
    | _ => .error .badOperands
  | "reset" => nullary .reset
  | "setResetPin" => bool .setResetPin
  | "getResetPin" => nullary .getResetPin
  | "setTxRxPin" => bool .setTxRxPin
  | "getTxRxPin" => nullary .getTxRxPin
  | "gpioClose" => nullary .gpioClose
  | "setRxFrequency" => hz .setRxFrequency
  | "getRxFrequency" => nullary .getRxFrequency
  | "setTxFrequency" => hz .setTxFrequency
  | "getTxFrequency" => nullary .getTxFrequency
  | "setLnaGain" => db .setLnaGain
  | "setPgaGain" => db .setPgaGain
  | "setDacGain" => db .setDacGain
  | "setMixerGain" => db .setMixerGain
  | "open" => nullary .openController
  | "close" => nullary .closeController
  | "setMode" =>
    match args with
    | [.word w] =>
      match String.ofList w with
      | "sleep" => .ok .setModeSleep
      | "standby" => .ok .setModeStandby
      | "rx" => .ok .setModeRx
      | "tx" => .ok .setModeTx
      | "tx_full" => .ok .setModeTxFull
      | "full_duplex" => .ok .setModeFullDuplex
      | _ => ofOption ((parseByte w).map .setMode)
    | _ => .error .badOperands
  | "getMode" => nullary .getMode
  | "enableRx" => bool .enableRx
  | "enableTx" => bool .enableTx
  | "enablePA" => bool .enablePA
  | "getStatus" => nullary .getStatus
  | "getVersion" => nullary .getVersion
  | "probe" => nullary .probe
  | "setTxRxSwitch" => bool .setTxRxSwitch
  | "getTxRxSwitch" => nullary .getTxRxSwitch
  | "resetDevice" => nullary .resetDevice
  | "initializeWithDefaults" => nullary .initializeWithDefaults
  | _ => .error .unknownOperation

/-- The operation of a line's tokens, `op(arg, …)` (R105). -/
def decodeTokens : List Token → Except DecodeError Instr
  | .word op :: .lpar :: ts =>
    if ts = [.rpar] then buildInstr (String.ofList op) []
    else match parseArgs ts.length ts with
      | some args => buildInstr (String.ofList op) args
      | none => .error .badForm
  | _ => .error .badForm

/-- The operation of a line of the notation. -/
def decodeText (line : List Char) : Except DecodeError Instr :=
  match lex [] none line with
  | some ts => decodeTokens ts
  | none => .error .badToken

/-- The call of a line: `scoped(op(…))` or `op(…)` (R105, R208). -/
def decodeCall (line : List Char) : Except DecodeError Call :=
  match lex [] none line with
  | some (.word w :: .lpar :: ts) =>
    if w = "scoped".toList then
      match ts.getLast? with
      | some .rpar => (decodeTokens ts.dropLast).map .scoped
      | _ => .error .badForm
    else (decodeTokens (.word w :: .lpar :: ts)).map .op
  | some _ => .error .badForm
  | none => .error .badToken

/-- The lines of a text. -/
def splitLines : (line : List Char) → List Char → List (List Char)
  | line, [] => [line.reverse]
  | line, c :: cs =>
    if c = '\n' then line.reverse :: splitLines [] cs else splitLines (c :: line) cs

/-- The calls of a list of lines; a line with no token, blank or a comment alone, holds none. -/
def decodeLines : List (List Char) → Except DecodeError (List Call)
  | [] => .ok []
  | line :: lines =>
    if lex [] none line = some [] then decodeLines lines
    else match decodeCall line with
      | .error e => .error e
      | .ok c =>
        match decodeLines lines with
        | .ok cs => .ok (c :: cs)
        | .error e => .error e

/-- The calls of a program: one operation call a line (R105). -/
def decodeProgram (text : List Char) : Except DecodeError (List Call) :=
  decodeLines (splitLines [] text)

/-! ### The notation: the encoder -/

/-- The notation's name of an operation (R106); a pseudo-operation has the name of its expansion. -/
def Instr.opName : Instr → String
  | .spiOpen => "spiOpen"
  | .spiClose => "spiClose"
  | .writeRegister _ _ => "writeRegister"
  | .readRegister _ => "readRegister"
  | .burstWrite _ _ => "burstWrite"
  | .burstRead _ _ => "burstRead"
  | .checkDevice => "checkDevice"
  | .gpioOpen _ _ _ => "gpioOpen"
  | .reset => "reset"
  | .setResetPin _ => "setResetPin"
  | .getResetPin => "getResetPin"
  | .setTxRxPin _ => "setTxRxPin"
  | .getTxRxPin => "getTxRxPin"
  | .gpioClose => "gpioClose"
  | .setRxFrequency _ => "setRxFrequency"
  | .getRxFrequency => "getRxFrequency"
  | .setTxFrequency _ => "setTxFrequency"
  | .getTxFrequency => "getTxFrequency"
  | .setLnaGain _ => "setLnaGain"
  | .setPgaGain _ => "setPgaGain"
  | .setDacGain _ => "setDacGain"
  | .setMixerGain _ => "setMixerGain"
  | .openController => "open"
  | .closeController => "close"
  | .setMode _ => "setMode"
  | .getMode => "getMode"
  | .enableRx _ => "enableRx"
  | .enableTx _ => "enableTx"
  | .enablePA _ => "enablePA"
  | .getStatus => "getStatus"
  | .getVersion => "getVersion"
  | .probe => "probe"
  | .setTxRxSwitch _ => "setTxRxSwitch"
  | .getTxRxSwitch => "getTxRxSwitch"
  | .resetDevice => "resetDevice"
  | .initializeWithDefaults => "initializeWithDefaults"
  | .setModeSleep => "setMode"
  | .setModeStandby => "setMode"
  | .setModeRx => "setMode"
  | .setModeTx => "setMode"
  | .setModeTxFull => "setMode"
  | .setModeFullDuplex => "setMode"

/-- A Boolean literal. -/
def boolText (b : Bool) : List Char := if b then "true".toList else "false".toList

/-- A signed integer literal. -/
def intText (n : Int) : List Char :=
  if n < 0 then '-' :: decimal n.natAbs else decimal n.natAbs

/-- A byte literal. -/
def byteText (b : Byte) : List Char := decimal b.toNat

/-- Texts with a separator between two of them. -/
def joinTexts : List (List Char) → List Char
  | [] => []
  | [t] => t
  | t :: ts => t ++ ',' :: joinTexts ts

/-- A number of tenths to the power `k`, as a decimal with `k` places. -/
def placesText (k n : Nat) : List Char :=
  if k = 0 then decimal n
  else decimal (n / 10 ^ k) ++ '.' ::
    (List.replicate (k - (decimal (n % 10 ^ k)).length) '0' ++ decimal (n % 10 ^ k))

/-- A dB literal. A rational that is no finite decimal is cut after its denominator's number of places; no
writable operation holds one. -/
def dbText (g : Rat) : List Char :=
  let k := (decimalPlaces g).getD g.den
  let n := g.num.natAbs * 10 ^ k / g.den
  if g.num < 0 then '-' :: placesText k n else placesText k n

/-- The operands of an operation as the notation writes them. -/
def Instr.operandTexts : Instr → List (List Char)
  | .writeRegister a v => [decimal a, byteText v]
  | .readRegister a => [decimal a]
  | .burstWrite s vs => [decimal s, '[' :: joinTexts (vs.map byteText) ++ [']']]
  | .burstRead s n => [decimal s, intText n]
  | .gpioOpen c r t => ['"' :: c ++ ['"'], decimal r, decimal t]
  | .setResetPin b | .setTxRxPin b | .enableRx b | .enableTx b | .enablePA b
  | .setTxRxSwitch b => [boolText b]
  | .setRxFrequency f | .setTxFrequency f => [decimal f]
  | .setLnaGain g | .setPgaGain g | .setDacGain g | .setMixerGain g => [dbText g]
  | .setMode m => [byteText m]
  | .setModeSleep => ["sleep".toList]
  | .setModeStandby => ["standby".toList]
  | .setModeRx => ["rx".toList]
  | .setModeTx => ["tx".toList]
  | .setModeTxFull => ["tx_full".toList]
  | .setModeFullDuplex => ["full_duplex".toList]
  | .spiOpen | .spiClose | .checkDevice | .reset | .getResetPin | .getTxRxPin | .gpioClose
  | .getRxFrequency | .getTxFrequency | .openController | .closeController | .getMode
  | .getStatus | .getVersion | .probe | .getTxRxSwitch | .resetDevice
  | .initializeWithDefaults => []

/-- The encoder to the notation: `op(arg,arg)`. -/
def encodeText (i : Instr) : List Char :=
  i.opName.toList ++ '(' :: joinTexts i.operandTexts ++ [')']

/-- The encoder of a call. -/
def encodeCall : Call → List Char
  | .op i => encodeText i
  | .scoped i => "scoped(".toList ++ encodeText i ++ [')']

end Sys2Proof
end

