-- ==== Sys2Proof/Machine/State.lean ====
section
/-! DEFINITION. The state of the machine, all of it plain data: the block's own state (R25 to R31), the
agents around it as far as the spec gives them state (the device, the wired lines, the platform's
answers, the callers: R40, R234, R237), and the model's own observation fields (the trace and the
returned results: R3, R213, R235). -/

namespace Sys2Proof.Machine

/-- The controller's phase, `ctl.phase` (R25). -/
inductive Phase where
  | notReady
  | ready
  deriving DecidableEq, Repr

/-- The six error kinds (R214). -/
inductive ErrorKind where
  | resourceUnavailable
  | notInitialized
  | invalidState
  | invalidArgument
  | transportFailure
  | compositeCloseError
  deriving DecidableEq, Repr

/-- The informative part of an error, after the pseudocode's words (R221; assumption 23). -/
inductive ErrorInfo where
  | transportAlreadyOpen
  | spiDeviceCannotOpen
  | gpioAlreadyOpen
  | chipMissing
  | lineClaimed
  | controllerAlreadyOpen
  | openFailed
  | notReady
  | transportNotOpen
  | gpioNotOpen
  | addressOutsideRange
  | emptyValues
  | nonPositiveCount
  | frequencyOutsideRange
  | mismatchedLengths
  | busError
  | lineError
  | releaseError
  | closeErrors
  deriving DecidableEq, Repr

/-- An error value (R213, R219): its kind, its informative part, and the kinds of the members of a
`CompositeCloseError` in order, none for the other kinds. -/
structure Error where
  kind : ErrorKind
  info : ErrorInfo
  members : List ErrorKind
  deriving DecidableEq, Repr

/-- The result value of an operation that succeeds (R62). -/
inductive Value where
  | unit
  | byte (b : Byte)
  | bytes (bs : List Byte)
  | level (b : Bool)
  | hz (f : Nat)
  | status (f : StatusFlags)
  | version (v : List Char)
  deriving DecidableEq, Repr

/-- How a call returns: `ok(result)` or `err(kind, info)` (R213). -/
inductive Result where
  | ok (v : Value)
  | err (e : Error)
  deriving DecidableEq, Repr

/-- A return to a caller: the model's own record of what R62 hands back and does not keep. -/
structure Return where
  caller : Nat
  result : Result
  deriving DecidableEq, Repr

/-- The bus events (R112), with the resource events of R15. -/
inductive Event where
  | xfer (tx rx : Frame)
  | gap (atLeast : Nat)
  | lineSet (line : Nat) (level : Bool)
  | hold (atLeast : Nat)
  | spiOpen (device : Path) (clockMode wordBits speedHz : Nat)
  | spiRelease
  | chipOpen (chip : Path)
  | lineRequest (line : Nat)
  | lineRelease (line : Nat)
  | chipRelease
  deriving DecidableEq, Repr

/-- An event in the trace: when it began and ended, whose call emitted it, and whether the primitive
succeeded (a failed attempt is in the trace too: assumption 21). -/
structure Stamp where
  start : Nat
  finish : Nat
  caller : Nat
  event : Event
  ok : Bool
  deriving DecidableEq, Repr

/-- The SPI register transport (R26, R131): `spi.open`, and the handle's settings, which mean nothing
while it is closed. `spi.lastEnd` belongs to the bus and stands in `State`. -/
structure Transport where
  /-- `spi.open`. -/
  isOpen : Bool
  device : Path
  clockMode : Nat
  wordBits : Nat
  speedHz : Nat
  deriving DecidableEq, Repr

/-- The GPIO line sequencer (R28 to R30). -/
structure Gpio where
  /-- `gpio.open`. -/
  isOpen : Bool
  /-- The chip whose handle is held. -/
  chip : Path
  /-- The line offsets held as requested output lines. -/
  lines : List Nat
  /-- The offset of the reset line of the handle; means nothing while closed. -/
  resetLine : Nat
  /-- The offset of the TX/RX line of the handle; means nothing while closed. -/
  txrxLine : Nat
  /-- `gpio.reset`; means nothing while closed. -/
  reset : Bool
  /-- `gpio.txrx`, `true` for transmit; means nothing while closed. -/
  txrx : Bool
  deriving DecidableEq, Repr

/-- One controller instance with its transport and its GPIO sequencer (R65, R212). -/
structure Controller where
  /-- `ctl.phase`. -/
  phase : Phase
  spi : Transport
  gpio : Gpio
  deriving DecidableEq, Repr

/-- The transport and the sequencer that callers use alone, outside a controller (R66, R67). They are not the
controller's: a controller owns its own two exclusively (R212; assumption 11). -/
structure Alone where
  spi : Transport
  gpio : Gpio
  deriving DecidableEq, Repr

/-- One instance: a controller, and the components used alone under the same number (assumption 10). -/
structure Instance where
  ctl : Controller
  alone : Alone
  deriving DecidableEq, Repr

/-- The device and the two lines wired to it: an external agent (R40, R237). `regs` lists the registers
whose byte is known (the last byte written, or the start state's); an address not listed holds an
unknown byte. -/
structure Device where
  regs : List Host.Cell
  /-- The device is held in reset: the block left the reset line high, and has not driven it low since (R141,
  R147, R253). -/
  held : Bool
  /-- The physical level of the reset line, driven or not (R237, R146). -/
  resetPin : Bool
  /-- The physical level of the TX/RX line (R237). -/
  txrxPin : Bool
  /-- When the block last drove the reset line high from low (R246, R253). -/
  rose : Option Nat
  /-- When the reset line last fell: driven low from high, or found low at its release (R248). -/
  fell : Option Nat
  deriving DecidableEq, Repr

/-- What a primitive hands back to the operation that used it: the platform's answer, and the block's
state just after it. -/
structure Reply where
  answer : Answer
  ctl : Controller
  deriving DecidableEq, Repr

/-- One turn of an operation: a primitive's reply, or the result of a part that ran uninterrupted. Model's own: an
operation in progress is the list of the turns it has had. -/
inductive Turn where
  | reply (r : Reply)
  | result (r : Result)
  deriving DecidableEq, Repr

/-- The three forms in which a caller's call reaches the block: the call itself, a line of the notation
(R105), or the frame pattern that stands for it (R3; assumption 1). -/
inductive Source where
  | call (c : Call)
  | text (line : List Char)
  | frames (fs : List Frame)
  deriving DecidableEq, Repr

/-- A call that a caller has issued on a controller instance and that has not returned (R234). The last two
fields are used with `SERIALIZED = false` only: the turns it has had, and whether it is stuck. -/
structure Request where
  caller : Nat
  target : Nat
  source : Source
  turns : List Turn
  stalled : Bool
  deriving DecidableEq, Repr

/-- The state of the machine. -/
structure State where
  /-- The parameters of R8; no step changes them (assumption 13). -/
  cfg : Config
  /-- The controller of the instance the current call runs on. -/
  ctl : Controller
  /-- The components used alone of the instance the current call runs on (R66, R67). -/
  alone : Alone
  /-- The instance's number (R65; assumption 10). -/
  ctlId : Nat
  /-- The other instances, by number, in rising order; an unlisted one is as after reset. -/
  parked : List (Nat × Instance)
  /-- `spi.lastEnd`: the end of the most recent transfer on the bus (R27). -/
  lastEnd : Option Nat
  /-- `bus.owner`: `none` is `free` (R31). -/
  owner : Option Nat
  /-- The caller of the current call (R31, R234). -/
  caller : Nat
  /-- The SX1255 and its wired lines (R40). -/
  device : Device
  /-- Host time (R27, R244). -/
  now : Nat
  /-- The platform's next answers, as far as they are known; after them come free draws (assumption 3). -/
  inputs : List Answer
  /-- How many answers have been drawn. -/
  drawn : Nat
  /-- The events emitted so far, first to last (R3, R112, R235). -/
  trace : List Stamp
  /-- The results returned so far, first to last (R213). -/
  returns : List Return
  /-- The calls issued and not returned, first to last (R80, R234). -/
  requests : List Request
  /-- The next choices among the callers, as far as they are known (assumption 9). -/
  schedule : List Nat
  /-- How many choices have been made. -/
  picked : Nat
  deriving DecidableEq, Repr

/-- Why the machine stops with no next state. -/
inductive Fault where
  /-- A caller finds the lock held by a call that never ends, and waits forever (R80, R224). Raised by every
  operation when `SERIALIZED = true` and `bus.owner` is not free. Safe: R224 gives no further step. -/
  | waitsForLock
  /-- Every call that has been issued is stuck in a stalled primitive or waits behind one of its own caller
  (R224, with `SERIALIZED = false`). Raised by the step. Safe: R224 gives no further step. -/
  | everyCallStuck
  deriving DecidableEq, Repr

/-- Why the model gives no meaning. -/
inductive Refusal where
  /-- The instruction has no meaning yet. No arm of `exec` answers so. Safe. -/
  | notModelled (mnemonic : String)
  /-- A frequency operation with `FXOSC` outside its legal range: R152 says that a model refuses such a
  configuration. Raised by the four frequency operations. Safe. -/
  | fxoscOutsideRange
  /-- A line of text that is no call of the notation (R105). Raised by the step. Safe. -/
  | textRejected (e : DecodeError)
  /-- Frames that encode no operation: a sequence that is no row of R108, a read frame with a data byte other than
  0x00 (R111), or no frame at all (R89). Raised by the step. Safe. -/
  | framesRejected (e : DecodeError)
  /-- An operand that cannot be presented (R24). Raised by the step. Safe. -/
  | operandNotPresentable
  /-- `scoped` of an operation that is not the controller's: R208 defines it for controller operations only.
  Raised by the step. Safe. -/
  | scopedNeedsControllerOperation
  deriving DecidableEq, Repr

/-- A transport after block reset (R237). The settings, which mean nothing until the first open, hold the
values assumption 20 names. -/
def Transport.afterReset : Transport where
  isOpen := false
  device := []
  clockMode := 0
  wordBits := 8
  speedHz := 0

/-- A sequencer after block reset (R237). The fields that mean nothing until the first open hold the values
assumption 20 names. -/
def Gpio.afterReset : Gpio where
  isOpen := false
  chip := []
  lines := []
  resetLine := 0
  txrxLine := 0
  reset := false
  txrx := false

/-- A controller after block reset (R237, R68). -/
def Controller.afterReset : Controller := ⟨.notReady, .afterReset, .afterReset⟩

/-- The components used alone after block reset (R237, R68). -/
def Alone.afterReset : Alone := ⟨.afterReset, .afterReset⟩

/-- An instance after block reset (R237, R68). -/
def Instance.afterReset : Instance := ⟨.afterReset, .afterReset⟩

/-- The device as the block knows it after block reset: every register unknown (R237, R238). The wired lines'
levels are any value. That the block holds no device in reset and that no fall or rise is known are the model's
choices (assumption 19). -/
def Device.afterReset : Device where
  regs := []
  held := false
  resetPin := Config.freeResetLevel
  txrxPin := Config.freeTxrxLevel
  rose := none
  fell := none

/-- The machine right after block reset (R237, R68). Host time, the current caller's number and the current
instance's number, for which the spec gives no reset value, are 0: the model's choices (assumptions 4, 8
and 10). The fields that are the model's own are empty or 0 (assumptions 1, 3, 9 and 22). -/
def State.reset : State where
  cfg := Config.normative
  ctl := Controller.afterReset
  alone := Alone.afterReset
  ctlId := 0
  parked := []
  lastEnd := none
  owner := none
  caller := 0
  device := Device.afterReset
  now := 0
  inputs := []
  drawn := 0
  trace := []
  returns := []
  requests := []
  schedule := []
  picked := 0

end Sys2Proof.Machine
end

