-- ==== Sys2Proof/Machine/Memory.lean ====
section
/-! DEFINITION. Lists of numbered entries in rising order: the device's known registers (the register
address space of R69 is the only memory), and the parked controller instances. -/

namespace Sys2Proof.Machine

/-- The entry of a number, if one is listed. -/
def lookupEntry {α : Type} (a : Nat) : List (Nat × α) → Option α
  | [] => none
  | (b, x) :: rest => if b = a then some x else lookupEntry a rest

/-- The list with an entry put in its place. -/
def insertEntry {α : Type} (a : Nat) (x : α) : List (Nat × α) → List (Nat × α)
  | [] => [(a, x)]
  | (b, y) :: rest =>
    if a < b then (a, x) :: (b, y) :: rest
    else if a = b then (a, x) :: rest
    else (b, y) :: insertEntry a x rest

/-- The list without the entry of a number. -/
def eraseEntry {α : Type} (a : Nat) (m : List (Nat × α)) : List (Nat × α) :=
  m.filter fun e => e.1 != a

/-- The canonical form: numbers strictly rising. -/
def risingEntries {α : Type} (m : List (Nat × α)) : Bool :=
  decide ((m.map Prod.fst).Pairwise (· < ·))

namespace Memory

/-- The canonical form of the register space: rising addresses, all in [0x00, 0x13] (R69). An address not
listed holds an unknown byte (R40), so no entry can equal what an unlisted address reads as. -/
def wf (m : List Host.Cell) : Bool := risingEntries m && m.all fun e => decide (e.1 ≤ lastAddr)

/-- The known byte of a register; `none` is an unknown byte (R40, R141). -/
def read (a : Nat) (m : List Host.Cell) : Option Byte := lookupEntry a m

/-- A register takes a byte; there is no location above 0x13 (R69). -/
def write (a : Nat) (v : Byte) (m : List Host.Cell) : List Host.Cell :=
  if a ≤ lastAddr then insertEntry a v m else m

/-- A register's byte becomes unknown (R124). -/
def forget (a : Nat) (m : List Host.Cell) : List Host.Cell := eraseEntry a m

/-- The bytes of `vs` at `a` and the addresses after it, in ascending order (R74); VERSION and STAT keep what
they hold (R40; assumption 17). -/
def writeRun (a : Nat) : List Byte → List Host.Cell → List Host.Cell
  | [], m => m
  | v :: vs, m =>
    writeRun (a + 1) vs (if a = Reg.version.addr ∨ a = Reg.stat.addr then m else write a v m)

/-- The bytes of `n` registers from `a` become unknown (R124). -/
def forgetRun (a : Nat) : Nat → List Host.Cell → List Host.Cell
  | 0, m => m
  | n + 1, m => forgetRun (a + 1) n (forget a m)

/-- What is known when a reset holds the device: VERSION and STAT only (R141; assumption 17). -/
def heldInReset (m : List Host.Cell) : List Host.Cell :=
  m.filter fun e => e.1 == Reg.version.addr || e.1 == Reg.stat.addr

/-- What is known after a device reset: `REG_DEFAULTS` where it specifies a register (R239), and VERSION and
STAT as before (R40; assumption 17). -/
def afterDeviceReset (defaults : List Host.Cell) (m : List Host.Cell) : List Host.Cell :=
  defaults.foldl
    (fun m e => if e.1 = Reg.version.addr ∨ e.1 = Reg.stat.addr then m else write e.1 e.2 m)
    (heldInReset m)

end Memory

end Sys2Proof.Machine
end

