-- ==== Sys2Proof/Machine/Device.lean ====
section
/-! DEFINITION. The far side of the bus, as far as the spec speaks of it: what a transfer does to the record
of known registers, what a read returns under `DEVICE_COHERENT`, and the reset line with its hazards
(R40, R124, R141, R239, R246, R248, R253). -/

namespace Sys2Proof.Machine.Device

/-- A transfer that starts at `t` is a hazard: the reset line is high, be it driven or left so by the platform, or
fell less than 5 ms before (R248); or the block left it high and has not driven it low since (R253). -/
def hazard (d : Device) (t : Nat) : Bool :=
  d.resetPin || d.held ||
    match d.fell with
    | some f => decide (t < f + settleNanos)
    | none => false

/-- What a transfer that started at `t` leaves where its effect is unknown. In a hazard the rule puts no bound
on it, so every register becomes unknown (R248; assumption 16). Otherwise the registers the frame targets do
(R124). -/
def forget (d : Device) (t : Nat) (tx : Frame) : Device :=
  if d.hazard t then { d with regs := [] }
  else match tx with
    | [] => d
    | b :: ds => { d with regs := Memory.forgetRun (frameAddr b) ds.length d.regs }

/-- The device's side of a completed exchange that started at `t`, `complete` saying that the response had
the request's length. A write that puts the device to sleep keeps the record like any other (R40, R236; assumption
16): a write frame's registers take its bytes (R118, R120), unless the transfer was a
hazard (R248) or the lengths differed (R126). -/
def accept (d : Device) (t : Nat) (tx : Frame) (complete : Bool) : Device :=
  if d.hazard t || !complete then d.forget t tx
  else match tx with
    | b :: ds => if isWrite b then { d with regs := Memory.writeRun (frameAddr b) ds d.regs } else d
    | [] => d

/-- Response bytes from address `a` on, with the known bytes in place of the drawn ones (R40). -/
def overlay (m : List Host.Cell) (a : Nat) : List Byte → List Byte
  | [] => []
  | x :: xs => (Memory.read a m).getD x :: overlay m (a + 1) xs

/-- The response of an exchange that started at `t`, where `rx` is the draw: in the normative model the draw
itself; under `DEVICE_COHERENT`, the known bytes in place of a read frame's drawn data bytes (R40),
except in a hazard (R248). -/
def respond (d : Device) (coherent : Bool) (t : Nat) (tx rx : Frame) : Frame :=
  if coherent && !d.hazard t then
    match tx, rx with
    | b :: _, x :: xs => if isWrite b then rx else x :: overlay d.regs (frameAddr b) xs
    | _, _ => rx
  else rx

/-- When the reset line last fell, once it is driven low at `t`: then, if it was high or left high (R248, R253). -/
def fallen (d : Device) (t : Nat) : Option Nat := if d.resetPin || d.held then some t else d.fell

/-- The block writes the wired reset line, which takes a level at `t`: the level written, or, where the write fails or
stalls, the one the platform leaves (R135; assumption 18). Rising puts the device in reset (R141).
Falling ends a pulse: after at least 100 µs the registers are as after a device reset (R239), after less
they are unknown (R253; assumption 18). -/
def moveReset (d : Device) (defaults : List Host.Cell) (t : Nat) (level : Bool) : Device :=
  match d.held, level with
  | false, true =>
    { d with held := true, resetPin := true, rose := some t, regs := Memory.heldInReset d.regs }
  | true, false =>
    let longEnough := match d.rose with
      | some r => decide (r + pulseNanos ≤ t)
      | none => false
    { d with
      held := false
      resetPin := false
      fell := some t
      regs := if longEnough then Memory.afterDeviceReset defaults d.regs
        else Memory.heldInReset d.regs }
  | true, true => { d with resetPin := true }
  | false, false => { d with resetPin := false, fell := d.fallen t }

/-- A line request drives the wired reset line low at `t` (R133). Where the line was high that is a fall with no
settle hold (R147, R248), but no reset pulse: the registers are as they were (R243). -/
def startLow (d : Device) (t : Nat) : Device :=
  { d with held := false, resetPin := false, fell := d.fallen t }

/-- The wired reset line is released at `t`, and the platform leaves it at a level (R146). The registers are as
they were (R257). A line found low after it was high has fallen (R248), and a device left held in reset counts
as held until the line is driven low (R253; assumption 19). -/
def float (d : Device) (t : Nat) (level : Bool) : Device :=
  { d with resetPin := level, fell := if d.resetPin && !level then some t else d.fell }

end Sys2Proof.Machine.Device
end

