-- ==== Sys2Proof/Machine/Ops.lean ====
section
/-! DEFINITION. The primitives of R12 and R15 over the state, the operations' shared language of
primitives, raising an error (the block's only exception: R213, R229), the serialization lock, and the
shared steps of 40_transport.md, 41_gpio.md, 43_gain.md and 44_control.md.

An operation is a `Prog`: the primitives its pseudocode uses, each with what follows on its reply. `Prog.run`
runs one without interruption; Machine/Schedule.lean also runs one primitive at a time. -/

namespace Sys2Proof.Machine

/-- Does a sequencer hold a line of a chip. -/
def Gpio.holds (g : Gpio) (chip : Path) (line : Nat) : Bool :=
  decide (g.chip = chip) && g.lines.contains line

/-- Does one of an instance's two sequencers hold a line of a chip. -/
def Instance.holds (n : Instance) (chip : Path) (line : Nat) : Bool :=
  n.ctl.gpio.holds chip line || n.alone.gpio.holds chip line

namespace State

/-! ### The platform's answers and the trace -/

/-- The platform's answer to the next primitive: the next input, or a free draw (R224; assumption 3). -/
def answer (s : State) : Answer := s.inputs.head?.getD (Config.freeAnswer s.drawn)

/-- The answer to the primitive `k` answers later. -/
def answerAt (s : State) (k : Nat) : Answer := (s.inputs[k]?).getD (Config.freeAnswer (s.drawn + k))

/-- The state with the next answer drawn. -/
def consume (s : State) : State := { s with inputs := s.inputs.tail, drawn := s.drawn + 1 }

/-- An event from `start` to `finish` at the end of the trace (R112). -/
def emit (s : State) (start finish : Nat) (ev : Event) (ok : Bool) : State :=
  { s with now := finish, trace := s.trace ++ [⟨start, finish, s.caller, ev, ok⟩] }

/-! ### The bus -/

/-- The earliest start of a transfer: 10 µs after the end of the one before it (R113, R245). -/
def busReady (s : State) : Nat :=
  match s.lastEnd with
  | none => 0
  | some e => e + gapNanos

/-- The wait at the head of `SpiTransfer`: nothing after a successful call (R113; assumption 6). -/
def awaitBus (s : State) : State :=
  if s.now < s.busReady then s.emit s.now s.busReady (.gap gapNanos) true else s

/-- The clocking time of a frame, 8 bits a byte at `SPI_SPEED_HZ`, rounded up (R258; assumption 4). -/
def clocking (s : State) (tx : Frame) : Nat :=
  (8 * tx.length * 1000000000 + s.cfg.spiSpeedHz - 1) / s.cfg.spiSpeedHz

/-! ### The wired lines -/

/-- A line of the chip in use takes a level: `onReset` is what that does to the device where the line is wired
to its reset pin, and the TX/RX pin follows its line (R242; assumption 12). -/
def wire (s : State) (line : Nat) (onReset : Device → Device) (level : Bool) : State :=
  if s.ctl.gpio.chip = s.cfg.gpioChip then
    if line = s.cfg.resetLine then { s with device := onReset s.device }
    else if line = s.cfg.txrxLine then { s with device := { s.device with txrxPin := level } }
    else s
  else s

/-- A written line takes a level (R135, R136, R138). -/
abbrev moveLine (s : State) (line : Nat) (level : Bool) : State :=
  s.wire line (fun d => d.moveReset s.cfg.regDefaults s.now level) level

/-- After a failed or stalled write the platform leaves the line at either level (R135, R253). Where the sequencer is
closed the write has not reached the line (assumption 34). -/
def disturbLine (s : State) (line : Nat) (level : Bool) : State :=
  if s.ctl.gpio.isOpen then s.moveLine line level else s

/-- A requested line is driven low (R133). -/
abbrev startLine (s : State) (line : Nat) : State :=
  s.wire line (fun d => d.startLow s.now) false

/-- A released line takes the level the platform leaves it at (R146). -/
abbrev floatLine (s : State) (line : Nat) (level : Bool) : State :=
  s.wire line (fun d => d.float s.now level) level

/-- Does a sequencer hold the line of its chip already: the one in use, its instance's other one, or another
instance's (R133, R144). -/
def lineHeld (s : State) (line : Nat) : Bool :=
  s.ctl.gpio.lines.contains line || s.alone.gpio.holds s.ctl.gpio.chip line ||
    s.parked.any fun p => p.2.holds s.ctl.gpio.chip line

/-- The lines the sequencer holds. -/
def setLines (s : State) (lines : List Nat) : State :=
  { s with ctl := { s.ctl with gpio := { s.ctl.gpio with lines := lines } } }

/-- The chip whose handle the sequencer holds. -/
def setChip (s : State) (chip : Path) : State :=
  { s with ctl := { s.ctl with gpio := { s.ctl.gpio with chip := chip } } }

/-- The settings of the SPI handle: mode 0, 8-bit words, `SPI_SPEED_HZ` (R26, R131). -/
def configureSpi (s : State) : State :=
  { s with ctl := { s.ctl with spi :=
      { s.ctl.spi with device := s.cfg.spiDevice, clockMode := 0, wordBits := 8,
                       speedHz := s.cfg.spiSpeedHz } } }

end State

/-! ### Primitives -/

/-- The two lines of a sequencer, by what they are for: `RESET_LINE` and `TXRX_LINE` (R133). -/
inductive Pin where
  | reset
  | txrx
  deriving DecidableEq, Repr

/-- The offset of a line of the handle (R133). -/
def Gpio.line (g : Gpio) : Pin → Nat
  | .reset => g.resetLine
  | .txrx => g.txrxLine

/-- The level the block drives on a line: `gpio.reset` or `gpio.txrx` (R29, R30). -/
def Gpio.level (g : Gpio) : Pin → Bool
  | .reset => g.reset
  | .txrx => g.txrx

/-- An assignment of the pseudocode, `c.field <- v` (R12). -/
inductive Write where
  | phase (p : Phase)
  | spiOpen (b : Bool)
  | gpioOpen (b : Bool)
  | gpioLines (resetLine txrxLine : Nat)
  | gpioLevel (pin : Pin) (b : Bool)
  deriving DecidableEq, Repr

/-- The assignment's effect on the controller instance. -/
def Write.apply (c : Controller) : Write → Controller
  | .phase p => { c with phase := p }
  | .spiOpen b => { c with spi := { c.spi with isOpen := b } }
  | .gpioOpen b => { c with gpio := { c.gpio with isOpen := b } }
  | .gpioLines r t => { c with gpio := { c.gpio with resetLine := r, txrxLine := t } }
  | .gpioLevel .reset b => { c with gpio := { c.gpio with reset := b } }
  | .gpioLevel .txrx b => { c with gpio := { c.gpio with txrx := b } }

/-- The state after an assignment. -/
def State.write (s : State) (w : Write) : State := { s with ctl := w.apply s.ctl }

/-- The primitives of R12 and R15. A wait carries how much longer than its bound it lasts (R244). `lineSet` is the
write of a line with the assignment that follows it, `GpioSet(line, level); field <- level` (R135, R136, R138), so
that no other caller's event comes between the two and the field is the level last driven (R29, R30; assumption
9). -/
inductive Prim where
  | look
  | assign (w : Write)
  | xfer (tx : Frame)
  | gap (slack : Nat)
  | hold (atLeast slack : Nat)
  | lineSet (pin : Pin) (level : Bool)
  | lineGet (pin : Pin)
  | spiOpen
  | spiRelease
  | chipOpen (chip : Path)
  | lineRequest (line : Nat)
  | lineRelease (line : Nat)
  | chipRelease
  deriving DecidableEq, Repr

/-- A primitive's outcome: its reply, or a stall (R224). -/
inductive Performed where
  | replied (r : Reply) (s : State)
  | stalled (s : State)
  deriving DecidableEq, Repr

/-- The reply of a primitive that asks nothing of the platform. -/
def quietReply (s : State) : Reply := ⟨⟨.ok, [], false, 0, 0, 0⟩, s.ctl⟩

/-- The exchange of `SpiTransfer` (R113): the wait for the bus, the exchange, `spi.lastEnd`, and the device's
side. A failed or stalled frame leaves its registers unknown (R124). It does not look at `spi.open`, which the
operation has checked: where another caller has closed the transport since, with `SERIALIZED = false`, the frame goes
out all the same, and ends as the platform answers (assumption 35). -/
def exchange (tx : Frame) (s : State) : Performed :=
  let a := s.answer
  let s₁ := s.consume.awaitBus
  let start := s₁.now + a.before
  let finish := start + s.clocking tx + a.took
  match a.status with
  | .stalled => .stalled { s₁ with now := start, device := s₁.device.forget start tx }
  | .failed =>
    .replied ⟨a, s.ctl⟩
      { s₁.emit start finish (.xfer tx a.rx) false with
        lastEnd := some finish, device := s₁.device.forget start tx }
  | .ok =>
    let rx := s₁.device.respond s.cfg.deviceCoherent start tx a.rx
    .replied ⟨{ a with rx := rx }, s.ctl⟩
      { s₁.emit start finish (.xfer tx rx) true with
        lastEnd := some finish
        device := s₁.device.accept start tx (rx.length == tx.length) }

/-- How a primitive ends: as the platform answers, but that a success it cannot give (`possible` false) is a
failure. -/
def outcome (a : Answer) (possible : Bool) : Status :=
  if a.status = .ok && !possible then .failed else a.status

/-- A line or resource primitive (R15): it emits its event, succeeding or failing, and its effects follow at the
event's end, or at its start where it stalls (assumption 33). -/
def attempt (possible : Bool) (ev : Event) (onOk onFail onStall : State → State) (s : State) :
    Performed :=
  let a := s.answer
  let s₁ := s.consume
  let start := s.now + a.before
  let finish := start + a.took
  match outcome a possible with
  | .stalled => .stalled (onStall { s₁ with now := start })
  | .failed =>
    let s₂ := onFail (s₁.emit start finish ev false)
    .replied ⟨{ a with status := .failed }, s₂.ctl⟩ s₂
  | .ok =>
    let s₂ := onOk (s₁.emit start finish ev true)
    .replied ⟨a, s₂.ctl⟩ s₂

/-- `GpioGet` (R12): it emits no event, and the level a caller gets is the driven one (R137, R139). It fails where
another caller has closed the sequencer since the operation's check (assumption 34). -/
def getLine (s : State) : Performed :=
  let a := s.answer
  let s₁ := { s.consume with now := s.now + a.before + a.took }
  match outcome a s.ctl.gpio.isOpen with
  | .stalled => .stalled s₁
  | status => .replied ⟨{ a with status := status }, s.ctl⟩ s₁

/-- `GpioSet(line, level); field <- level` (R135, R136, R138) on the sequencer's line. Where a failed or stalled write
leaves the line low the pulse ends there, and the record
follows it as it follows a write that succeeds: with the entries of `REG_DEFAULTS` 100 µs or more after the rise,
unknown before (assumption 18). Where another caller has closed the sequencer since the operation's check, the write
fails and moves no line (assumption 34). -/
def setLine (pin : Pin) (level : Bool) (s : State) : Performed :=
  let line := s.ctl.gpio.line pin
  attempt s.ctl.gpio.isOpen (.lineSet line level)
    (fun s' => (s'.moveLine line level).write (.gpioLevel pin level))
    (fun s' => s'.disturbLine line s.answer.level) (fun s' => s'.disturbLine line s.answer.level) s

/-- What a primitive does. A request or a release that stalls keeps the claim as it was, and leaves the wired line at
whatever level the platform does (assumptions 7 and 19). -/
def Prim.perform (p : Prim) (s : State) : Performed :=
  match p with
  | .look => .replied (quietReply s) s
  | .assign w =>
    .replied (quietReply (s.write w)) (s.write w)
  | .xfer tx => exchange tx s
  | .gap slack =>
    .replied (quietReply s) (s.emit s.now (s.now + gapNanos + slack) (.gap gapNanos) true)
  | .hold t slack =>
    .replied (quietReply s) (s.emit s.now (s.now + t + slack) (.hold t) true)
  | .lineSet pin level => setLine pin level s
  | .lineGet _ => getLine s
  | .spiOpen =>
    attempt true (.spiOpen s.cfg.spiDevice 0 8 s.cfg.spiSpeedHz) State.configureSpi id id s
  | .spiRelease => attempt true .spiRelease id id id s
  | .chipOpen chip => attempt true (.chipOpen chip) (fun s' => s'.setChip chip) id id s
  | .lineRequest line =>
    -- the request drives the line low (R133)
    attempt (!s.lineHeld line) (.lineRequest line)
      (fun s' => ((s'.setLines (line :: s'.ctl.gpio.lines)).emit s'.now s'.now (.lineSet line false)
        true).startLine line) id
      (fun s' => if s'.lineHeld line then s' else s'.floatLine line s.answer.level) s
  | .lineRelease line =>
    -- a released line is at whatever level the platform leaves it (R146)
    attempt true (.lineRelease line)
      (fun s' => (s'.setLines (s'.ctl.gpio.lines.erase line)).floatLine line s.answer.level)
      (fun s' => (s'.setLines (s'.ctl.gpio.lines.erase line)).floatLine line s.answer.level)
      (fun s' => s'.floatLine line s.answer.level) s
  | .chipRelease => attempt true .chipRelease id id id s

/-! ### Operations as programs of primitives -/

/-- An operation: its primitives in program order, each with what follows on its reply (R12, R22). `whole` is a part
that no other caller's events come into, with what follows on its result. -/
inductive Prog where
  | done (r : Result)
  | refuse (r : Refusal)
  | act (p : Prim) (k : Reply → Prog)
  | whole (q : Prog) (k : Result → Prog)

/-- How an uninterrupted run ends: the call returns, never ends (R224), or has no meaning. -/
inductive Ran where
  | done (r : Result) (s : State)
  | stalled (s : State)
  | refused (r : Refusal)
  deriving DecidableEq, Repr

namespace Prog

/-- An uninterrupted run: each primitive completes before the next begins (R82). -/
def run : Prog → State → Ran
  | .done r, s => .done r s
  | .refuse r, _ => .refused r
  | .act p k, s =>
    match p.perform s with
    | .replied r s' => (k r).run s'
    | .stalled s' => .stalled s'
  | .whole q k, s =>
    match q.run s with
    | .done r s' => (k r).run s'
    | .stalled s' => .stalled s'
    | .refused r => .refused r

/-- A program, then what follows on its result. -/
def bind : Prog → (Result → Prog) → Prog
  | .done r, f => f r
  | .refuse r, _ => .refuse r
  | .act p k, f => .act p fun r => (k r).bind f
  | .whole q k, f => .whole q fun r => (k r).bind f

/-- What is left of a program after the turns it has had. -/
def resume : Prog → List Turn → Prog
  | .act _ k, .reply r :: ts => (k r).resume ts
  | .whole _ k, .result r :: ts => (k r).resume ts
  | p, _ => p

/-- A program that no other caller's events come into. -/
def uninterrupted (q : Prog) : Prog := .whole q .done

/-- `return v` (R12). -/
def ret (v : Value) : Prog := .done (.ok v)

/-- `raise E(info)`: the operation ends with the typed error, the block's only exception. Nothing is saved,
no mode changes, and control goes to the caller (R12, R213, R229). -/
def raise (kind : ErrorKind) (info : ErrorInfo) : Prog := .done (.err ⟨kind, info, []⟩)

/-- `raise CompositeCloseError(errs)` (R219). -/
def raiseAll (members : List ErrorKind) : Prog :=
  .done (.err ⟨.compositeCloseError, .closeErrors, members⟩)

/-- The block's own state, read. -/
def look (k : Controller → Prog) : Prog := .act .look fun r => k r.ctl

/-- `c.field <- v`. -/
def assign (w : Write) (next : Prog) : Prog := .act (.assign w) fun _ => next

end Prog

/-- Did the primitive succeed. -/
def Reply.isOk (r : Reply) : Bool := r.answer.status == .ok

/-- The members an error contributes to a composite: its own, or itself (R183, R219). -/
def Error.flatten (e : Error) : List ErrorKind :=
  if e.kind = .compositeCloseError then e.members else [e.kind]

/-- The members a result contributes to a composite. -/
def Result.errors : Result → List ErrorKind
  | .ok _ => []
  | .err e => e.flatten

/-! ### Checks -/

/-- A result as a controller operation gives it. `InvalidState` cannot occur inside a controller (R220): where
another caller's `close` came after the phase check, with `SERIALIZED = false`, the controller is not ready any
more, and the error is `NotInitialized` (assumption 32). -/
def Result.inController : Result → Result
  | .ok v => .ok v
  | .err e => if e.kind = .invalidState then .err ⟨.notInitialized, .notReady, []⟩ else .err e

/-- `require ctl.phase = Ready`, else `NotInitialized` (R185), then the controller operation's own steps. -/
def requireReady (next : Prog) : Prog :=
  .look fun c =>
    if c.phase = .ready then next.bind fun r => .done r.inController
    else .raise .notInitialized .notReady

/-- `require spi.open`, else `InvalidState` (R117). The transfer after it is a turn of its own, and does not check
again: another caller's `spiClose` or `close` may come between the two with `SERIALIZED = false` (assumption 35). -/
def requireSpi (next : Prog) : Prog :=
  .look fun c => if c.spi.isOpen then next else .raise .invalidState .transportNotOpen

/-- `require gpio.open`, else `InvalidState` (R134). -/
def requireGpio (next : Prog) : Prog :=
  .look fun c => if c.gpio.isOpen then next else .raise .invalidState .gpioNotOpen

/-- `checkRange(s, n)`, else `InvalidArgument` (R116). -/
def requireRange (start n : Nat) (next : Prog) : Prog :=
  if inRange start n then next else .raise .invalidArgument .addressOutsideRange

/-- A configuration with a legal `FXOSC`: the model gives the frequency operations no meaning under another
(R152; assumption 14). -/
def requireFxosc (cfg : Config) (next : Prog) : Prog :=
  if legalFxosc cfg.fxosc then next else .refuse .fxoscOutsideRange

/-! ### The transport's shared steps -/

/-- `SpiTransfer(tx)` (R113): the exchange, the checks of its outcome, and the gap after a success, whether or not
another caller has closed the transport since the operation's open check (assumption 35). A response of another length
is an `InvalidArgument` in every operation, as R113, R126 and R217's point 5 say, in a gain, `setMode` or enable
operation too, of which R217's last sentence and R174 say that it never raises one (assumption 36). -/
def spiTransfer (tx : Frame) (next : Frame → Prog) : Prog :=
  .act (.xfer tx) fun r =>
    if !r.isOk then .raise .transportFailure .busError
    else if r.answer.rx.length ≠ tx.length then .raise .invalidArgument .mismatchedLengths
    else .act (.gap r.answer.after) fun _ => next r.answer.rx

/-- `writeRegister(addr, value)` as a step of an operation (R118). -/
def writeReg (addr : Nat) (value : Byte) (next : Prog) : Prog :=
  requireSpi <| requireRange addr 1 <| spiTransfer (writeFrame addr value) fun _ => next

/-- `readRegister(addr)` as a step of an operation: the second response byte (R119). -/
def readReg (addr : Nat) (next : Byte → Prog) : Prog :=
  requireSpi <| requireRange addr 1 <| spiTransfer (readFrame addr) fun rx =>
    match rx with
    | [_, r] => next r
    | _ => .raise .invalidArgument .mismatchedLengths

/-- A read-modify-write: the read frame, then the write frame computed from its response; the write is issued
even when nothing changes (R164, R190). -/
def readModifyWrite (reg : Reg) (update : Byte → Byte) : Prog :=
  readReg reg.addr fun r => writeReg reg.addr (update r) <| .ret .unit

/-- The three writes of a tuning word, most significant byte first (R153). -/
def writeWord (first : Reg) (w : Nat) : Prog :=
  writeReg first.addr (wordMsb w) <| writeReg (first.addr + 1) (wordMid w) <|
    writeReg (first.addr + 2) (wordLsb w) <| .ret .unit

/-- The three reads of a tuning word, in the same order (R154). -/
def readWord (first : Reg) (next : Nat → Prog) : Prog :=
  readReg first.addr fun h => readReg (first.addr + 1) fun m => readReg (first.addr + 2) fun l =>
    next (joinWord h m l)

/-- Single writes of a table's entries, in order (R206). -/
def writeTable : List Host.Cell → Prog
  | [] => .ret .unit
  | (a, v) :: rest => writeReg a v (writeTable rest)

/-- A frequency set: the phase check, then the range check, then the writes (R153, R155). -/
def setFrequency (cfg : Config) (first : Reg) (f : Nat) : Prog :=
  requireFxosc cfg <| requireReady <|
    if validHz f then writeWord first (tuningWord cfg.fxosc f)
    else .raise .invalidArgument .frequencyOutsideRange

/-- A frequency read-back: any word is converted, with no range check (R154, R156). -/
def getFrequency (cfg : Config) (first : Reg) : Prog :=
  requireFxosc cfg <| requireReady <| readWord first fun w => .ret (.hz (wordHz cfg.fxosc w))

/-- The shared shape of the gain setters (R164). -/
def setGain (fd : Field) (code : Nat) : Prog :=
  requireReady <| readModifyWrite fd.reg fun r => fd.insert r code

/-- The shared shape of the enable operations (R190). -/
def enableBit (b : ModeBit) (on : Bool) : Prog :=
  requireReady <| readModifyWrite .mode fun r => putModeBit r b on

/-- The write of a whole MODE byte (R188). -/
def writeMode (m : Byte) : Prog := requireReady <| writeReg Reg.mode.addr m <| .ret .unit

/-- `readRegister(addr)` as a whole operation. -/
def returnReg (addr : Nat) : Prog := readReg addr fun r => .ret (.byte r)

/-! ### The sequencer's shared steps -/

/-- `GpioSet(line, level); field <- level`, a line write error being a `TransportFailure` (R135, R136,
R138). The step after it is given the slack of a wait that follows. -/
def driveLine (pin : Pin) (level : Bool) (next : Nat → Prog) : Prog :=
  .act (.lineSet pin level) fun r =>
    if r.isOk then next r.answer.after else .raise .transportFailure .lineError

/-- `return GpioGet(line)`: the driven level (R137, R139). -/
def readLine (pin : Pin) : Prog :=
  .act (.lineGet pin) fun r =>
    if r.isOk then .ret (.level (r.ctl.gpio.level pin)) else .raise .transportFailure .lineError

/-- The reset pulse and the settle hold (R135). -/
def pulseReset : Prog :=
  requireGpio <| driveLine .reset true fun slack₁ => .act (.hold pulseNanos slack₁) fun _ =>
    driveLine .reset false fun slack₂ => .act (.hold settleNanos slack₂) fun _ => .ret .unit

/-- A level on the TX/RX line (R138). -/
def driveTxRx (level : Bool) : Prog := requireGpio <| driveLine .txrx level fun _ => .ret .unit

/-- The level of the TX/RX line (R139). -/
def readTxRx : Prog := requireGpio <| readLine .txrx

/-! ### Opening and closing -/

/-- `spiOpen()` (R114). -/
def openTransport : Prog :=
  .look fun c =>
    if c.spi.isOpen then .raise .resourceUnavailable .transportAlreadyOpen
    else .act .spiOpen fun r =>
      if r.isOk then .assign (.spiOpen true) (.ret .unit)
      else .raise .resourceUnavailable .spiDeviceCannotOpen

/-- `spiClose()` (R115): closed whether or not the release reports an error. -/
def closeTransport : Prog :=
  .look fun c =>
    if c.spi.isOpen then
      .act .spiRelease fun r => .assign (.spiOpen false) <|
        if r.isOk then .ret .unit else .raise .transportFailure .releaseError
    else .ret .unit

/-- `gpioOpen(chipPath, resetPin, txRxPin)` (R133): a failure part-way releases what was acquired, in reverse
order. -/
def openSequencer (chip : Path) (resetPin txRxPin : Nat) : Prog :=
  .look fun c =>
    if c.gpio.isOpen then .raise .resourceUnavailable .gpioAlreadyOpen
    else .act (.chipOpen chip) fun r =>
      if !r.isOk then .raise .resourceUnavailable .chipMissing
      else .act (.lineRequest resetPin) fun r =>
        if !r.isOk then
          .act .chipRelease fun _ => .raise .resourceUnavailable .lineClaimed
        else .act (.lineRequest txRxPin) fun r =>
          if !r.isOk then
            .act (.lineRelease resetPin) fun _ => .act .chipRelease fun _ =>
              .raise .resourceUnavailable .lineClaimed
          else
            .assign (.gpioLines resetPin txRxPin) <| .assign (.gpioLevel .reset false) <|
              .assign (.gpioLevel .txrx false) <| .assign (.gpioOpen true) <| .ret .unit

/-- The release error of a primitive, if it failed (R140, R218). -/
def releaseError (r : Reply) : List ErrorKind := if r.isOk then [] else [.transportFailure]

/-- `gpioClose()` (R140): every release is attempted; one error is itself, more are a composite. -/
def closeSequencer : Prog :=
  .look fun c =>
    if c.gpio.isOpen then
      .act (.lineRelease c.gpio.txrxLine) fun r₁ =>
        .act (.lineRelease c.gpio.resetLine) fun r₂ =>
          .act .chipRelease fun r₃ => .assign (.gpioOpen false) <|
            match releaseError r₁ ++ releaseError r₂ ++ releaseError r₃ with
            | [] => .ret .unit
            | [e] => .raise e .releaseError
            | errs => .raiseAll errs
    else .ret .unit

/-- The controller's `open()` (R181, R182): the transport, then the sequencer; the error of the cleanup after a
failure is discarded. No other caller's events come into it, so that R64 holds outside it (assumption 9). -/
def openSession (cfg : Config) : Prog :=
  .uninterrupted <| .look fun c =>
    if c.phase = .ready then .raise .resourceUnavailable .controllerAlreadyOpen
    else openTransport.bind fun r₁ =>
      match r₁ with
      | .err _ => .raise .resourceUnavailable .openFailed
      | .ok _ =>
        (openSequencer cfg.gpioChip cfg.resetLine cfg.txrxLine).bind fun r₂ =>
          match r₂ with
          | .err _ => closeTransport.bind fun _ => .raise .resourceUnavailable .openFailed
          | .ok _ => .assign (.phase .ready) <| .ret .unit

/-- The controller's `close()` (R183): the sequencer, then the transport, whatever fails. No other caller's events
come into it, so that R64 holds outside it (assumption 9). -/
def closeSession : Prog :=
  .uninterrupted <| requireReady <|
    closeSequencer.bind fun r₁ => closeTransport.bind fun r₂ =>
      .assign (.phase .notReady) <|
        match r₁.errors ++ r₂.errors with
        | [] => .ret .unit
        | errs => .raiseAll errs

/-! ### The lock, and returning to the caller -/

namespace State

/-- The lock is taken for the current caller (R80); with `SERIALIZED = false` there is none (R81). -/
def takeLock (s : State) : State :=
  if s.cfg.serialized then { s with owner := some s.caller } else s

/-- The lock is released (R80, R226). -/
def releaseLock (s : State) : State := if s.cfg.serialized then { s with owner := none } else s

/-- The call returns: the exit of an operation, with a result or with an error (R213, R229, R230). -/
def deliver (s : State) (r : Result) : State :=
  { s with returns := s.returns ++ [⟨s.caller, r⟩] }

end State

/-- One whole operation, under the lock (R80, R187). A held lock is never released in this model, since only
a stalled call holds it between two calls: the caller waits forever (R224). -/
def runCall (p : Prog) (s : State) : Host.Outcome State Fault Refusal :=
  if s.cfg.serialized && s.owner.isSome then .fault .waitsForLock
  else match p.run s.takeLock with
    | .done r s' => .next (s'.releaseLock.deliver r)
    | .stalled s' => .next s'
    | .refused r => .refused r

/-! ### Components used alone (R66, R67) -/

/-- The transport and the sequencer used alone in the controller's place, and back again. -/
def State.swapParts (s : State) : State :=
  { s with
    ctl := { s.ctl with spi := s.alone.spi, gpio := s.alone.gpio }
    alone := ⟨s.ctl.spi, s.ctl.gpio⟩ }

/-- The state as an operation sees it: one used alone works on the components used alone (R66, R67), and every
other on the controller's own (R212). -/
def State.view (alone : Bool) (s : State) : State := if alone then s.swapParts else s

/-- One whole operation used alone: the same call, on the components used alone. -/
def runAlone (p : Prog) (s : State) : Host.Outcome State Fault Refusal :=
  match runCall p s.swapParts with
  | .next t => .next t.swapParts
  | .fault e => .fault e
  | .refused e => .refused e

end Sys2Proof.Machine
end

