-- ==== Sys2Proof/Machine/Control.lean ====
section
/-! DEFINITION. The meanings of the operations of 44_control.md and the pseudo-operations of R107: each operation's
program, and its execution as one uninterrupted call. -/

namespace Sys2Proof.Machine

/-- `open()` (R181). -/
def progOpenController (cfg : Config) : Prog := openSession cfg

/-- The meaning of `open()` (R181). -/
def execOpenController (s : State) : Host.Outcome State Fault Refusal :=
  runCall (progOpenController s.cfg) s

/-- `close()` (R183). -/
def progCloseController : Prog := closeSession

/-- The meaning of `close()` (R183). -/
def execCloseController (s : State) : Host.Outcome State Fault Refusal :=
  runCall progCloseController s

/-- `setMode(m)`: any byte, no legality check (R188). -/
def progSetMode (m : Byte) : Prog := writeMode m

/-- The meaning of `setMode(m)` (R188). -/
def execSetMode (m : Byte) (s : State) : Host.Outcome State Fault Refusal :=
  runCall (progSetMode m) s

/-- `getMode()` (R189). -/
def progGetMode : Prog := requireReady <| returnReg Reg.mode.addr

/-- The meaning of `getMode()` (R189). -/
def execGetMode (s : State) : Host.Outcome State Fault Refusal :=
  runCall progGetMode s

/-- `enableRx(on)` (R191). -/
def progEnableRx (on : Bool) : Prog := enableBit .rx on

/-- The meaning of `enableRx(on)` (R191). -/
def execEnableRx (on : Bool) (s : State) : Host.Outcome State Fault Refusal :=
  runCall (progEnableRx on) s

/-- `enableTx(on)` (R192). -/
def progEnableTx (on : Bool) : Prog := enableBit .tx on

/-- The meaning of `enableTx(on)` (R192). -/
def execEnableTx (on : Bool) (s : State) : Host.Outcome State Fault Refusal :=
  runCall (progEnableTx on) s

/-- `enablePA(on)` (R193). -/
def progEnablePA (on : Bool) : Prog := enableBit .driver on

/-- The meaning of `enablePA(on)` (R193). -/
def execEnablePA (on : Bool) (s : State) : Host.Outcome State Fault Refusal :=
  runCall (progEnablePA on) s

/-- `getStatus()` (R198). -/
def progGetStatus : Prog :=
  requireReady <| readReg Reg.stat.addr fun s => .ret (.status (decodeStatus s))

/-- The meaning of `getStatus()` (R198). -/
def execGetStatus (s : State) : Host.Outcome State Fault Refusal :=
  runCall progGetStatus s

/-- `getVersion()` (R199). -/
def progGetVersion : Prog :=
  requireReady <| readReg Reg.version.addr fun v => .ret (.version (decodeVersion v))

/-- The meaning of `getVersion()` (R199). -/
def execGetVersion (s : State) : Host.Outcome State Fault Refusal :=
  runCall progGetVersion s

/-- `probe()`: the controller's form of `checkDevice` (R201). -/
def progProbe : Prog := requireReady <| returnReg Reg.version.addr

/-- The meaning of `probe()` (R201). -/
def execProbe (s : State) : Host.Outcome State Fault Refusal :=
  runCall progProbe s

/-- `setTxRxSwitch(on)`: MODE is not touched (R202). -/
def progSetTxRxSwitch (on : Bool) : Prog := requireReady <| driveTxRx on

/-- The meaning of `setTxRxSwitch(on)` (R202). -/
def execSetTxRxSwitch (on : Bool) (s : State) : Host.Outcome State Fault Refusal :=
  runCall (progSetTxRxSwitch on) s

/-- `getTxRxSwitch()` (R203). -/
def progGetTxRxSwitch : Prog := requireReady readTxRx

/-- The meaning of `getTxRxSwitch()` (R203). -/
def execGetTxRxSwitch (s : State) : Host.Outcome State Fault Refusal :=
  runCall progGetTxRxSwitch s

/-- `resetDevice()` (R204). -/
def progResetDevice : Prog := requireReady pulseReset

/-- The meaning of `resetDevice()` (R204). -/
def execResetDevice (s : State) : Host.Outcome State Fault Refusal :=
  runCall progResetDevice s

/-- `initializeWithDefaults()`: the first failing write ends it, with no rollback (R206). -/
def progInitializeWithDefaults (cfg : Config) : Prog := requireReady <| writeTable cfg.defaultTable

/-- The meaning of `initializeWithDefaults()` (R206). -/
def execInitializeWithDefaults (s : State) : Host.Outcome State Fault Refusal :=
  runCall (progInitializeWithDefaults s.cfg) s

/-- `setMode(sleep)` (R107). -/
def progSetModeSleep : Prog := writeMode NamedMode.sleep.value

/-- The meaning of `setMode(sleep)` (R107). -/
def execSetModeSleep (s : State) : Host.Outcome State Fault Refusal :=
  runCall progSetModeSleep s

/-- `setMode(standby)` (R107). -/
def progSetModeStandby : Prog := writeMode NamedMode.standby.value

/-- The meaning of `setMode(standby)` (R107). -/
def execSetModeStandby (s : State) : Host.Outcome State Fault Refusal :=
  runCall progSetModeStandby s

/-- `setMode(rx)` (R107). -/
def progSetModeRx : Prog := writeMode NamedMode.rx.value

/-- The meaning of `setMode(rx)` (R107). -/
def execSetModeRx (s : State) : Host.Outcome State Fault Refusal :=
  runCall progSetModeRx s

/-- `setMode(tx)` (R107). -/
def progSetModeTx : Prog := writeMode NamedMode.tx.value

/-- The meaning of `setMode(tx)` (R107). -/
def execSetModeTx (s : State) : Host.Outcome State Fault Refusal :=
  runCall progSetModeTx s

/-- `setMode(tx_full)` (R107). -/
def progSetModeTxFull : Prog := writeMode NamedMode.txFull.value

/-- The meaning of `setMode(tx_full)` (R107). -/
def execSetModeTxFull (s : State) : Host.Outcome State Fault Refusal :=
  runCall progSetModeTxFull s

/-- `setMode(full_duplex)` (R107). -/
def progSetModeFullDuplex : Prog := writeMode NamedMode.fullDuplex.value

/-- The meaning of `setMode(full_duplex)` (R107). -/
def execSetModeFullDuplex (s : State) : Host.Outcome State Fault Refusal :=
  runCall progSetModeFullDuplex s

end Sys2Proof.Machine
end

