-- ==== Sys2Proof/Machine/Gain.lean ====
section
/-! DEFINITION. The meanings of the operations of 43_gain.md: each operation's program, and its execution as one
uninterrupted call. -/

namespace Sys2Proof.Machine

/-- `setLnaGain(g)` (R166). -/
def progSetLnaGain (g : Rat) : Prog := setGain lnaField (encodeLna g)

/-- The meaning of `setLnaGain(g)` (R166). -/
def execSetLnaGain (g : Rat) (s : State) : Host.Outcome State Fault Refusal :=
  runCall (progSetLnaGain g) s

/-- `setPgaGain(g)` (R168). -/
def progSetPgaGain (g : Rat) : Prog := setGain pgaField (encodePga g)

/-- The meaning of `setPgaGain(g)` (R168). -/
def execSetPgaGain (g : Rat) (s : State) : Host.Outcome State Fault Refusal :=
  runCall (progSetPgaGain g) s

/-- `setDacGain(g)` (R170). -/
def progSetDacGain (g : Rat) : Prog := setGain dacField (encodeDac g)

/-- The meaning of `setDacGain(g)` (R170). -/
def execSetDacGain (g : Rat) (s : State) : Host.Outcome State Fault Refusal :=
  runCall (progSetDacGain g) s

/-- `setMixerGain(g)` (R172). -/
def progSetMixerGain (g : Rat) : Prog := setGain mixerField (encodeMixer g)

/-- The meaning of `setMixerGain(g)` (R172). -/
def execSetMixerGain (g : Rat) (s : State) : Host.Outcome State Fault Refusal :=
  runCall (progSetMixerGain g) s

end Sys2Proof.Machine
end

