-- ==== Sys2Proof/Machine/Sequencer.lean ====
section
/-! DEFINITION. The meanings of the operations of 41_gpio.md: each operation's program, and its execution as one
uninterrupted call on the components used alone (R66, R67). -/

namespace Sys2Proof.Machine

/-- `gpioOpen(chipPath, resetPin, txRxPin)` (R133). No other caller's events come into it, so that an open sequencer
holds its chip and its two lines, and both are low after it (R28 to R30; assumption 9). -/
def progGpioOpen (chip : Path) (resetPin txRxPin : Nat) : Prog :=
  .uninterrupted <| openSequencer chip resetPin txRxPin

/-- The meaning of `gpioOpen(chipPath, resetPin, txRxPin)` (R133). -/
def execGpioOpen (chip : Path) (resetPin txRxPin : Nat) (s : State) : Host.Outcome State Fault Refusal :=
  runAlone (progGpioOpen chip resetPin txRxPin) s

/-- `reset()` (R135). -/
def progReset : Prog := pulseReset

/-- The meaning of `reset()` (R135). -/
def execReset (s : State) : Host.Outcome State Fault Refusal :=
  runAlone progReset s

/-- `setResetPin(level)`: no timing is enforced (R136). -/
def progSetResetPin (level : Bool) : Prog :=
  requireGpio <| driveLine .reset level fun _ => .ret .unit

/-- The meaning of `setResetPin(level)` (R136). -/
def execSetResetPin (level : Bool) (s : State) : Host.Outcome State Fault Refusal :=
  runAlone (progSetResetPin level) s

/-- `getResetPin()` (R137). -/
def progGetResetPin : Prog := requireGpio <| readLine .reset

/-- The meaning of `getResetPin()` (R137). -/
def execGetResetPin (s : State) : Host.Outcome State Fault Refusal :=
  runAlone progGetResetPin s

/-- `setTxRxPin(level)`: `true` is transmit (R138). -/
def progSetTxRxPin (level : Bool) : Prog := driveTxRx level

/-- The meaning of `setTxRxPin(level)` (R138). -/
def execSetTxRxPin (level : Bool) (s : State) : Host.Outcome State Fault Refusal :=
  runAlone (progSetTxRxPin level) s

/-- `getTxRxPin()` (R139). -/
def progGetTxRxPin : Prog := readTxRx

/-- The meaning of `getTxRxPin()` (R139). -/
def execGetTxRxPin (s : State) : Host.Outcome State Fault Refusal :=
  runAlone progGetTxRxPin s

/-- `gpioClose()` (R140). No other caller's events come into it, so that it releases no line that a later `gpioOpen`
requested (R28; assumption 9). -/
def progGpioClose : Prog := .uninterrupted closeSequencer

/-- The meaning of `gpioClose()` (R140). -/
def execGpioClose (s : State) : Host.Outcome State Fault Refusal :=
  runAlone progGpioClose s

end Sys2Proof.Machine
end

