-- ==== Sys2Proof/Machine/Synthesizer.lean ====
section
/-! DEFINITION. The meanings of the operations of 42_synthesizer.md: each operation's
program, and its execution as one uninterrupted call. -/

namespace Sys2Proof.Machine

/-- `setRxFrequency(f)` (R153). -/
def progSetRxFrequency (cfg : Config) (f : Nat) : Prog := setFrequency cfg .frfhRx f

/-- The meaning of `setRxFrequency(f)` (R153). -/
def execSetRxFrequency (f : Nat) (s : State) : Host.Outcome State Fault Refusal :=
  runCall (progSetRxFrequency s.cfg f) s

/-- `getRxFrequency()` (R154). -/
def progGetRxFrequency (cfg : Config) : Prog := getFrequency cfg .frfhRx

/-- The meaning of `getRxFrequency()` (R154). -/
def execGetRxFrequency (s : State) : Host.Outcome State Fault Refusal :=
  runCall (progGetRxFrequency s.cfg) s

/-- `setTxFrequency(f)` (R155). -/
def progSetTxFrequency (cfg : Config) (f : Nat) : Prog := setFrequency cfg .frfhTx f

/-- The meaning of `setTxFrequency(f)` (R155). -/
def execSetTxFrequency (f : Nat) (s : State) : Host.Outcome State Fault Refusal :=
  runCall (progSetTxFrequency s.cfg f) s

/-- `getTxFrequency()` (R156). -/
def progGetTxFrequency (cfg : Config) : Prog := getFrequency cfg .frfhTx

/-- The meaning of `getTxFrequency()` (R156). -/
def execGetTxFrequency (s : State) : Host.Outcome State Fault Refusal :=
  runCall (progGetTxFrequency s.cfg) s

end Sys2Proof.Machine
end

