-- ==== Sys2Proof/Machine/Transport.lean ====
section
/-! DEFINITION. The meanings of the operations of 40_transport.md: each operation's program, and its execution as one
uninterrupted call on the components used alone (R66, R67). -/

namespace Sys2Proof.Machine

/-- `spiOpen()` (R114). No other caller's events come into it, so that an open transport holds its handle (R26;
assumption 9). -/
def progSpiOpen : Prog := .uninterrupted openTransport

/-- The meaning of `spiOpen()` (R114). -/
def execSpiOpen (s : State) : Host.Outcome State Fault Refusal :=
  runAlone progSpiOpen s

/-- `spiClose()` (R115). No other caller's events come into it, so that an open transport holds its handle (R26;
assumption 9). -/
def progSpiClose : Prog := .uninterrupted closeTransport

/-- The meaning of `spiClose()` (R115). -/
def execSpiClose (s : State) : Host.Outcome State Fault Refusal :=
  runAlone progSpiClose s

/-- `writeRegister(addr, value)` (R118). -/
def progWriteRegister (addr : Nat) (value : Byte) : Prog := writeReg addr value <| .ret .unit

/-- The meaning of `writeRegister(addr, value)` (R118). -/
def execWriteRegister (addr : Nat) (value : Byte) (s : State) : Host.Outcome State Fault Refusal :=
  runAlone (progWriteRegister addr value) s

/-- `readRegister(addr)` (R119). -/
def progReadRegister (addr : Nat) : Prog := returnReg addr

/-- The meaning of `readRegister(addr)` (R119). -/
def execReadRegister (addr : Nat) (s : State) : Host.Outcome State Fault Refusal :=
  runAlone (progReadRegister addr) s

/-- `burstWrite(startAddr, values)`: the open check, the shape, the range, then one transfer (R120). -/
def progBurstWrite (start : Nat) (values : List Byte) : Prog :=
  requireSpi <|
    if values = [] then .raise .invalidArgument .emptyValues
    else requireRange start values.length <|
      spiTransfer (burstWriteFrame start values) fun _ => .ret .unit

/-- The meaning of `burstWrite(startAddr, values)` (R120). -/
def execBurstWrite (start : Nat) (values : List Byte) (s : State) : Host.Outcome State Fault Refusal :=
  runAlone (progBurstWrite start values) s

/-- `burstRead(startAddr, count)`: the open check, the count, the range, then one transfer (R121). -/
def progBurstRead (start : Nat) (count : Int) : Prog :=
  requireSpi <|
    if count ≤ 0 then .raise .invalidArgument .nonPositiveCount
    else requireRange start count.toNat <|
      spiTransfer (burstReadFrame start count.toNat) fun rx => .ret (.bytes rx.tail)

/-- The meaning of `burstRead(startAddr, count)` (R121). -/
def execBurstRead (start : Nat) (count : Int) (s : State) : Host.Outcome State Fault Refusal :=
  runAlone (progBurstRead start count) s

/-- `checkDevice()`: a read of VERSION, not judged (R122). -/
def progCheckDevice : Prog := returnReg Reg.version.addr

/-- The meaning of `checkDevice()` (R122). -/
def execCheckDevice (s : State) : Host.Outcome State Fault Refusal :=
  runAlone progCheckDevice s

end Sys2Proof.Machine
end

