-- ==== Sys2Proof/Machine/Dispatch.lean ====
section
/-! DEFINITION. One arm per operation: what it does, run as one whole call. -/

namespace Sys2Proof.Machine

def exec (i : Instr) (s : State) : Host.Outcome State Fault Refusal :=
  match i with
  | .spiOpen => Sys2Proof.Machine.execSpiOpen s
  | .spiClose => Sys2Proof.Machine.execSpiClose s
  | .writeRegister addr value => Sys2Proof.Machine.execWriteRegister addr value s
  | .readRegister addr => Sys2Proof.Machine.execReadRegister addr s
  | .burstWrite start values => Sys2Proof.Machine.execBurstWrite start values s
  | .burstRead start count => Sys2Proof.Machine.execBurstRead start count s
  | .checkDevice => Sys2Proof.Machine.execCheckDevice s
  | .gpioOpen chip resetPin txRxPin => Sys2Proof.Machine.execGpioOpen chip resetPin txRxPin s
  | .reset => Sys2Proof.Machine.execReset s
  | .setResetPin level => Sys2Proof.Machine.execSetResetPin level s
  | .getResetPin => Sys2Proof.Machine.execGetResetPin s
  | .setTxRxPin level => Sys2Proof.Machine.execSetTxRxPin level s
  | .getTxRxPin => Sys2Proof.Machine.execGetTxRxPin s
  | .gpioClose => Sys2Proof.Machine.execGpioClose s
  | .setRxFrequency f => Sys2Proof.Machine.execSetRxFrequency f s
  | .getRxFrequency => Sys2Proof.Machine.execGetRxFrequency s
  | .setTxFrequency f => Sys2Proof.Machine.execSetTxFrequency f s
  | .getTxFrequency => Sys2Proof.Machine.execGetTxFrequency s
  | .setLnaGain g => Sys2Proof.Machine.execSetLnaGain g s
  | .setPgaGain g => Sys2Proof.Machine.execSetPgaGain g s
  | .setDacGain g => Sys2Proof.Machine.execSetDacGain g s
  | .setMixerGain g => Sys2Proof.Machine.execSetMixerGain g s
  | .openController => Sys2Proof.Machine.execOpenController s
  | .closeController => Sys2Proof.Machine.execCloseController s
  | .setMode m => Sys2Proof.Machine.execSetMode m s
  | .getMode => Sys2Proof.Machine.execGetMode s
  | .enableRx on => Sys2Proof.Machine.execEnableRx on s
  | .enableTx on => Sys2Proof.Machine.execEnableTx on s
  | .enablePA on => Sys2Proof.Machine.execEnablePA on s
  | .getStatus => Sys2Proof.Machine.execGetStatus s
  | .getVersion => Sys2Proof.Machine.execGetVersion s
  | .probe => Sys2Proof.Machine.execProbe s
  | .setTxRxSwitch on => Sys2Proof.Machine.execSetTxRxSwitch on s
  | .getTxRxSwitch => Sys2Proof.Machine.execGetTxRxSwitch s
  | .resetDevice => Sys2Proof.Machine.execResetDevice s
  | .initializeWithDefaults => Sys2Proof.Machine.execInitializeWithDefaults s
  | .setModeSleep => Sys2Proof.Machine.execSetModeSleep s
  | .setModeStandby => Sys2Proof.Machine.execSetModeStandby s
  | .setModeRx => Sys2Proof.Machine.execSetModeRx s
  | .setModeTx => Sys2Proof.Machine.execSetModeTx s
  | .setModeTxFull => Sys2Proof.Machine.execSetModeTxFull s
  | .setModeFullDuplex => Sys2Proof.Machine.execSetModeFullDuplex s

end Sys2Proof.Machine
end

