-- ==== Sys2Proof/Machine/Programs.lean ====
section
/-! DEFINITION. The program of every operation under a configuration, for the runs that need it as a whole:
`scoped`, and one primitive at a time. -/

namespace Sys2Proof.Machine

/-- The program of an operation. -/
def programOf (cfg : Config) : Instr → Prog
  | .spiOpen => progSpiOpen
  | .spiClose => progSpiClose
  | .writeRegister addr value => progWriteRegister addr value
  | .readRegister addr => progReadRegister addr
  | .burstWrite start values => progBurstWrite start values
  | .burstRead start count => progBurstRead start count
  | .checkDevice => progCheckDevice
  | .gpioOpen chip resetPin txRxPin => progGpioOpen chip resetPin txRxPin
  | .reset => progReset
  | .setResetPin level => progSetResetPin level
  | .getResetPin => progGetResetPin
  | .setTxRxPin level => progSetTxRxPin level
  | .getTxRxPin => progGetTxRxPin
  | .gpioClose => progGpioClose
  | .setRxFrequency f => progSetRxFrequency cfg f
  | .getRxFrequency => progGetRxFrequency cfg
  | .setTxFrequency f => progSetTxFrequency cfg f
  | .getTxFrequency => progGetTxFrequency cfg
  | .setLnaGain g => progSetLnaGain g
  | .setPgaGain g => progSetPgaGain g
  | .setDacGain g => progSetDacGain g
  | .setMixerGain g => progSetMixerGain g
  | .openController => progOpenController cfg
  | .closeController => progCloseController
  | .setMode m => progSetMode m
  | .getMode => progGetMode
  | .enableRx on => progEnableRx on
  | .enableTx on => progEnableTx on
  | .enablePA on => progEnablePA on
  | .getStatus => progGetStatus
  | .getVersion => progGetVersion
  | .probe => progProbe
  | .setTxRxSwitch on => progSetTxRxSwitch on
  | .getTxRxSwitch => progGetTxRxSwitch
  | .resetDevice => progResetDevice
  | .initializeWithDefaults => progInitializeWithDefaults cfg
  | .setModeSleep => progSetModeSleep
  | .setModeStandby => progSetModeStandby
  | .setModeRx => progSetModeRx
  | .setModeTx => progSetModeTx
  | .setModeTxFull => progSetModeTxFull
  | .setModeFullDuplex => progSetModeFullDuplex

/-- `scoped(op)` (R208): `open`, the operation, then `close` whether or not the operation failed; the errors of
the two combine, the operation's first. -/
def progScoped (cfg : Config) (i : Instr) : Prog :=
  (openSession cfg).bind fun o =>
    match o with
    | .err e => .done (.err e)
    | .ok _ =>
      (programOf cfg i).bind fun r => closeSession.bind fun c =>
        match r, c with
        | .err e, .err e' => .raiseAll (e.flatten ++ e'.flatten)
        | .err e, .ok _ => .done (.err e)
        | .ok _, .err e' => .done (.err e')
        | .ok v, .ok _ => .done (.ok v)

/-- The program of a call. -/
def programOfCall (cfg : Config) : Call → Prog
  | .op i => programOf cfg i
  | .scoped i => progScoped cfg i

/-- The meaning of `scoped(op)`: one whole call, under one taking of the lock (R208). -/
def execScoped (i : Instr) (s : State) : Host.Outcome State Fault Refusal :=
  runCall (progScoped s.cfg i) s

end Sys2Proof.Machine
end

