-- ==== Sys2Proof/Machine/Schedule.lean ====
section
/-! DEFINITION. Between two calls: which caller goes next, the reading of what it issued, the controller
instance it runs on, and, with `SERIALIZED = false`, the running of one turn of one call. -/

namespace Sys2Proof.Machine

/-! ### Reading a call (R3, R105; assumption 1) -/

/-- The call of a request, or why there is none. -/
def readSource (cfg : Config) : Source → Except Refusal Call
  | .call c => .ok c
  | .text line =>
    match decodeCall line with
    | .ok c => .ok c
    | .error e => .error (.textRejected e)
  | .frames fs =>
    match decodeFrames cfg.fxosc cfg.defaultTable fs with
    | .ok i => .ok (.op i)
    | .error e => .error (.framesRejected e)

/-- The call of a request, once it is known to be one a caller can present (R24, R208). -/
def fetchCall (cfg : Config) (src : Source) : Except Refusal Call :=
  match readSource cfg src with
  | .error e => .error e
  | .ok (.op i) => if i.wellFormed then .ok (.op i) else .error .operandNotPresentable
  | .ok (.scoped i) =>
    if !i.wellFormed then .error .operandNotPresentable
    else if !i.isController then .error .scopedNeedsControllerOperation
    else .ok (.scoped i)

/-! ### Which caller goes next (R80, R81, R234; assumption 9) -/

/-- May the request at a place go on: it is not stuck, and no earlier request is its caller's (a caller's
operations keep their order, R81). -/
def mayGo (rs : List Request) (n : Nat) : Bool :=
  match rs[n]? with
  | some r => !r.stalled && !(rs.take n).any fun r' => r'.caller == r.caller
  | none => false

/-- The places of the requests that may go on. -/
def eligible (rs : List Request) : List Nat := (List.range rs.length).filter (mayGo rs)

namespace State

/-- The next choice among the callers: the schedule's, or a free one. -/
def choice (s : State) : Nat := s.schedule.head?.getD (Config.freePick s.picked)

/-- The place of the request that goes next, and the request. -/
def nextRequest (s : State) : Option (Nat × Request) :=
  match (eligible s.requests)[s.choice % (eligible s.requests).length]? with
  | some n => (s.requests[n]?).map fun r => (n, r)
  | none => none

/-- The instance of a request becomes the current one; the one before it is parked (R65). -/
def attach (s : State) (id : Nat) : State :=
  if id = s.ctlId then s
  else
    { s with
      ctl := ((lookupEntry id s.parked).getD Instance.afterReset).ctl
      alone := ((lookupEntry id s.parked).getD Instance.afterReset).alone
      ctlId := id
      parked := insertEntry s.ctlId ⟨s.ctl, s.alone⟩ (eraseEntry id s.parked) }

/-- The choice is used up, and the request's caller and controller instance are the current ones. -/
def select (s : State) (r : Request) : State :=
  { s.attach r.target with
    caller := r.caller, schedule := s.schedule.tail, picked := s.picked + 1 }

/-- The state in which a request's whole call runs: it is no longer waiting. -/
def startCall (s : State) (n : Nat) (r : Request) : State :=
  { s.select r with requests := s.requests.eraseIdx n }

end State

/-! ### The two ways of running a call -/

/-- `SERIALIZED = true`: the whole call, under the lock (R80). -/
def runWhole (n : Nat) (r : Request) (c : Call) (s : State) : Host.Outcome State Fault Refusal :=
  match c with
  | .op i => exec i (s.startCall n r)
  | .scoped i => execScoped i (s.startCall n r)

/-- `SERIALIZED = false`: one turn of the call, a primitive or a whole open or close of a controller, a transport or a
sequencer (assumption 9), or its return; the others' may come between any two of them (R81), another caller's close
between a check and what follows it too (assumptions 32, 34 and 35). A stall leaves the call stuck (R224). That the other callers
go on, on the bus too though the stalled transfer never ends (R77), is the model's choice (assumption 7). -/
def runPrimitive (n : Nat) (r : Request) (c : Call) (s : State) : Host.Outcome State Fault Refusal :=
  match (programOfCall s.cfg c).resume r.turns with
  | .done res => .next ((s.startCall n r).deliver res)
  | .refuse e => .refused e
  | .act p _ =>
    match p.perform ((s.select r).view c.usedAlone) with
    | .replied reply s' =>
      .next { s'.view c.usedAlone with
        requests := s.requests.set n { r with turns := r.turns ++ [.reply reply] } }
    | .stalled s' =>
      .next { s'.view c.usedAlone with requests := s.requests.set n { r with stalled := true } }
  | .whole q _ =>
    match q.run ((s.select r).view c.usedAlone) with
    | .done res s' =>
      .next { s'.view c.usedAlone with
        requests := s.requests.set n { r with turns := r.turns ++ [.result res] } }
    | .stalled s' =>
      .next { s'.view c.usedAlone with requests := s.requests.set n { r with stalled := true } }
    | .refused e => .refused e

end Sys2Proof.Machine
end

