-- ==== Sys2Proof/Machine/Step.lean ====
section
/-! DEFINITION. One step: a request goes on, whole with `SERIALIZED = true`, by one turn with
`SERIALIZED = false`. With no request the block does nothing (assumption 28). -/

namespace Sys2Proof.Machine

/-- One step of the machine. -/
def step (s : State) : Host.Outcome State Fault Refusal :=
  match s.nextRequest with
  | none => if s.requests = [] then .next s else .fault .everyCallStuck
  | some (n, r) =>
    match fetchCall s.cfg r.source with
    | .error e => .refused e
    | .ok c => if s.cfg.serialized then runWhole n r c s else runPrimitive n r c s

/-- The state with the operation of a table word issued by the current caller on the current controller
instance, and chosen to go next (assumption 1). -/
def State.withFetchWord (s : State) (nbits w : Nat) : State :=
  { s with
    requests := [⟨s.caller, s.ctlId, .frames (tableFrames nbits w), [], false⟩]
    schedule := [0] }

end Sys2Proof.Machine
end

