-- ==== Sys2Proof/Laws/Config.lean ====
section
/-! SUPPORT. What the configuration of the normative model is, whatever its open parameters are (R8, R205;
assumption 13). -/

namespace Sys2Proof

/-- A free order keeps every entry and adds none. -/
theorem shuffle_perm (place : Nat → Nat) :
    ∀ (es done : List Host.Cell) (n : Nat), (shuffle place n es done).Perm (es ++ done)
  | [], done, _ => List.Perm.refl done
  | e :: rest, done, n => by
    have hplace : place n % (done.length + 1) ≤ done.length :=
      Nat.lt_succ_iff.mp (Nat.mod_lt _ (Nat.succ_pos _))
    exact (shuffle_perm place rest _ (n + 1)).trans <|
      ((List.perm_insertIdx e done hplace).append_left rest).trans List.perm_middle

/-- The open `DEFAULT_TABLE` is some order of the six fixed entries and 11 others. -/
theorem openDefaultTable_perm (fxosc : Nat) :
    (openDefaultTable fxosc).Perm (tuningDefaults fxosc ++ (List.range 11).map openEntry) := by
  simpa [openDefaultTable] using shuffle_perm Config.openDefaultPlace
    (tuningDefaults fxosc ++ (List.range 11).map openEntry) [] 0

/-- An open entry is a register's, and not STAT's (R58). -/
theorem notStat_legal (n : Fin 19) : notStat n ≤ lastAddr ∧ notStat n ≠ Reg.stat.addr := by
  revert n; decide

/-- The open `DEFAULT_TABLE` is one that R205 allows. -/
theorem legalDefaultTable_open (fxosc : Nat) : legalDefaultTable fxosc (openDefaultTable fxosc) = true := by
  have hp := openDefaultTable_perm fxosc
  simp only [legalDefaultTable, Bool.and_eq_true, beq_iff_eq, bne_iff_ne, List.all_eq_true,
    List.contains_iff_mem, decide_eq_true_eq]
  refine ⟨⟨by rw [hp.length_eq]; simp [tuningDefaults], fun e he => hp.mem_iff.mpr (by simp [he])⟩,
    fun e he => ?_⟩
  rcases List.mem_append.mp (hp.mem_iff.mp he) with h | h
  · simp only [tuningDefaults, List.mem_cons, List.not_mem_nil, or_false] at h
    rcases h with rfl | rfl | rfl | rfl | rfl | rfl <;> simp [lastAddr, Reg.addr]
  · obtain ⟨n, -, rfl⟩ := List.mem_map.mp h
    exact notStat_legal _

/-- The open `REG_DEFAULTS` is a map from the register addresses to bytes. -/
theorem legalRegDefaults_open : legalRegDefaults openRegDefaults = true := by
  have hfst : openRegDefaults.map Prod.fst
      = (List.range 20).filter fun a => (Config.openRegDefault a).isSome := by
    rw [openRegDefaults, List.map_filterMap, ← List.filterMap_eq_filter]
    refine List.filterMap_congr fun a _ => ?_
    cases h : Config.openRegDefault a <;> simp [h, Option.guard]
  simp only [legalRegDefaults, Bool.and_eq_true, decide_eq_true_eq, List.all_eq_true]
  refine ⟨by rw [hfst]; exact List.pairwise_lt_range.filter _, fun e he => ?_⟩
  have : e.1 ∈ List.range 20 := List.mem_of_mem_filter (hfst ▸ List.mem_map_of_mem he)
  exact Nat.lt_succ_iff.mp (List.mem_range.mp this)

end Sys2Proof
end

