-- ==== Sys2Proof/Safety.lean ====
section
/-! DEFINITION. The terms the statements use: what is read off a trace, when a call can go through, and the
invariants of the machine. -/

namespace Sys2Proof.Machine

/-! ### The trace -/

/-- Is the event a transfer. -/
def Event.isXfer : Event → Bool
  | .xfer _ _ => true
  | _ => false

/-- The frame of a transfer. -/
def Event.frame? : Event → Option Frame
  | .xfer tx _ => some tx
  | _ => none

/-- A line, wait or resource event: any event but a transfer and a gap. -/
def Event.isSide : Event → Bool
  | .xfer _ _ => false
  | .gap _ => false
  | _ => true

namespace State

/-- The frames sent so far, failed attempts among them. -/
def frames (s : State) : List Frame := s.trace.filterMap fun e => e.event.frame?

/-- The line, hold and resource events so far, each with its success. -/
def sideEvents (s : State) : List (Event × Bool) :=
  (s.trace.filter fun e => e.event.isSide).map fun e => (e.event, e.ok)

/-- The transfers so far, with their times. -/
def xfers (s : State) : List Stamp := s.trace.filter fun e => e.event.isXfer

/-! ### When a call goes through -/

/-- No stuck call holds the lock (R80). -/
def lockFree (s : State) : Bool := !s.cfg.serialized || s.owner.isNone

/-- A session is open: `Ready`, with both sub-resources open (R64). -/
def inSession (s : State) : Bool :=
  decide (s.ctl.phase = .ready) && s.ctl.spi.isOpen && s.ctl.gpio.isOpen

/-- The platform's next answers are successes with responses of the given lengths, one for each primitive to
come that asks the platform. -/
def answersOk (s : State) : List Nat → Bool
  | lens => (lens.zipIdx).all fun p =>
      (s.answerAt p.2).status == .ok && (s.answerAt p.2).rx.length == p.1

/-- The next answers are successes; the responses are not asked for. -/
def answersSucceed (s : State) (n : Nat) : Bool :=
  (List.range n).all fun k => (s.answerAt k).status == .ok

/-- The response byte the platform drew at place `j` for the transfer that uses answer `k`. -/
def drawnByte (s : State) (k j : Nat) : Byte := (s.answerAt k).rx.getD j 0

/-- When the next transfer starts (R113). -/
def nextStart (s : State) : Nat := s.consume.awaitBus.now + s.answer.before

/-- Is the next transfer a hazard (R248). -/
def hazardNext (s : State) : Bool := s.device.hazard s.nextStart

/-- The byte a call reads from a register at place `j` of the transfer that uses answer `k`, only reads coming
before it: the known byte under `DEVICE_COHERENT`, else the draw (R40; assumption 16). Where the call's first
transfer is a hazard it is the draw in every case, since that transfer leaves nothing known (R248). -/
def byteRead (s : State) (k j a : Nat) : Byte :=
  if s.cfg.deviceCoherent && !s.hazardNext then (Memory.read a s.device.regs).getD (s.drawnByte k j)
  else s.drawnByte k j

/-- The data bytes that the read frames of a pattern give. -/
def bytesRead (s : State) (fs : List Frame) : List Byte :=
  fs.zipIdx.flatMap fun p =>
    match p.1 with
    | b :: ds =>
      if isWrite b then []
      else (List.range ds.length).map fun j => s.byteRead p.2 (j + 1) (frameAddr b + j)
    | [] => []

/-- The frames an operation sends here: the row of R108, the write of a read-modify-write being computed from
the byte read (R82). -/
def patternOf (s : State) (i : Instr) : List Frame :=
  framesOf s.cfg.fxosc s.cfg.defaultTable
    ((s.bytesRead (framesOf s.cfg.fxosc s.cfg.defaultTable 0 i)).headD 0) i

/-! ### The components an operation works on (R66, R67, R212) -/

/-- The transport an operation works on: the controller's own, or the one used alone. -/
def spiFor (s : State) (i : Instr) : Transport := if i.isController then s.ctl.spi else s.alone.spi

/-- The sequencer an operation works on: the controller's own, or the one used alone. -/
def gpioFor (s : State) (i : Instr) : Gpio := if i.isController then s.ctl.gpio else s.alone.gpio

end State

/-- What a call that returned did, beside its effect on the instance's components, the bus and the device: its
result went to its caller, its frames and its other events are the trace's next ones, the lock is as before,
host time did not go back, and nothing else of the machine changed. -/
structure Returned (s t : State) (frames : List Frame) (side : List (Event × Bool))
    (r : Result) : Prop where
  returns : t.returns = s.returns ++ [⟨s.caller, r⟩]
  frames : t.frames = s.frames ++ frames
  sideEvents : t.sideEvents = s.sideEvents ++ side
  now : s.now ≤ t.now
  owner : t.owner = s.owner
  cfg : t.cfg = s.cfg
  ctlId : t.ctlId = s.ctlId
  parked : t.parked = s.parked
  caller : t.caller = s.caller
  requests : t.requests = s.requests
  schedule : t.schedule = s.schedule
  picked : t.picked = s.picked

/-- The wired lines and the reset's times are as before. -/
structure SameLines (s t : State) : Prop where
  held : t.device.held = s.device.held
  resetPin : t.device.resetPin = s.device.resetPin
  txrxPin : t.device.txrxPin = s.device.txrxPin
  rose : t.device.rose = s.device.rose
  fell : t.device.fell = s.device.fell

/-- Every register outside the given addresses is as before. -/
def SameRegsBut (addrs : List Nat) (s t : State) : Prop :=
  ∀ a, a ∉ addrs → Memory.read a t.device.regs = Memory.read a s.device.regs

/-- The last transfer has ended, and at least 10 µs have passed since (R123). -/
def BusRested (t : State) : Prop := ∃ e, t.lastEnd = some e ∧ e + gapNanos ≤ t.now

/-- The instance's components are as before: the controller with its own, and those used alone. -/
structure SameParts (s t : State) : Prop where
  ctl : t.ctl = s.ctl
  alone : t.alone = s.alone

/-- The operation's sequencer is the given one, and the instance's other components are as before. -/
def OnlyGpio (i : Instr) (s t : State) (g : Gpio) : Prop :=
  if i.isController then t.ctl = { s.ctl with gpio := g } ∧ t.alone = s.alone
  else t.ctl = s.ctl ∧ t.alone = { s.alone with gpio := g }

/-- The effect of writing registers, beside the call's return (R118, R123): the instance's components and the
lines are as before, and the bus has rested. Where no transfer is a hazard, no register outside the given cells
changes, and every written register but VERSION and STAT holds its byte in the model's record of the device
(R40; assumptions 16 and 17). Where the first transfer is a hazard, every other register is unknown (R248). -/
structure WroteRegs (s t : State) (cells : List Host.Cell) : Prop where
  parts : SameParts s t
  lines : SameLines s t
  others : s.hazardNext = false → SameRegsBut (cells.map Prod.fst) s t
  values : s.hazardNext = false → (cells.map Prod.fst).Nodup →
    ∀ e ∈ cells, e.1 ≠ Reg.version.addr → e.1 ≠ Reg.stat.addr →
      Memory.read e.1 t.device.regs = some e.2
  hazardous : s.hazardNext = true →
    ∀ a, a ∉ cells.map Prod.fst → Memory.read a t.device.regs = none
  rested : BusRested t

/-- The effect of reading registers, beside the call's return (R119, R123): the instance's components are as
before, and so is the device, except that a hazard leaves no register known (R248). -/
structure ReadRegs (s t : State) : Prop where
  parts : SameParts s t
  device : t.device = if s.hazardNext then { s.device with regs := [] } else s.device
  rested : BusRested t

/-- No sequencer holds any of the lines of a chip: neither the opening one, nor its instance's other one, nor
another instance's (R133, R144). -/
def State.linesFree (s : State) (opening other : Gpio) (chip : Path) (lines : List Nat) : Bool :=
  lines.all fun l => !opening.lines.contains l && !other.holds chip l &&
    !s.parked.any fun p => p.2.holds chip l

/-- A sequencer's handle is the configured one, and its lines are the two wired to the device (R242). -/
def Gpio.isWired (g : Gpio) (cfg : Config) : Bool :=
  decide (g.chip = cfg.gpioChip) && decide (g.resetLine = cfg.resetLine)
    && decide (g.txrxLine = cfg.txrxLine) && decide (cfg.resetLine ≠ cfg.txrxLine)

/-- The level of the last successful write of a line among some events, and the given one where there is none. -/
def lastDriven (events : List Stamp) (line : Nat) (level : Bool) : Bool :=
  events.foldl (fun b e =>
    match e.event with
    | .lineSet l b' => if decide (l = line) && e.ok then b' else b
    | _ => b) level

/-- A controller that a session can be opened on: `NotReady`, with both sub-resources closed (R64). -/
def State.sessionClosed (s : State) : Bool :=
  decide (s.ctl.phase = .notReady) && !s.ctl.spi.isOpen && !s.ctl.gpio.isOpen

/-- The configured chip and its two lines can be acquired by the controller (R133, R144). -/
def State.configFree (s : State) : Bool :=
  s.linesFree s.ctl.gpio s.alone.gpio s.cfg.gpioChip [s.cfg.resetLine, s.cfg.txrxLine]
    && decide (s.cfg.resetLine ≠ s.cfg.txrxLine)

/-- The events of a successful `open()` (R181). -/
def State.openEvents (s : State) : List (Event × Bool) :=
  [(.spiOpen s.cfg.spiDevice 0 8 s.cfg.spiSpeedHz, true), (.chipOpen s.cfg.gpioChip, true),
   (.lineRequest s.cfg.resetLine, true), (.lineSet s.cfg.resetLine false, true),
   (.lineRequest s.cfg.txrxLine, true), (.lineSet s.cfg.txrxLine false, true)]

/-- The events of a `close()` on the configured lines, every release succeeding (R183). -/
def State.closeEvents (s : State) : List (Event × Bool) :=
  [(.lineRelease s.cfg.txrxLine, true), (.lineRelease s.cfg.resetLine, true), (.chipRelease, true),
   (.spiRelease, true)]

/-- A call that fails a check: its error goes to its caller, and nothing else changes (R223). -/
def State.rejected (s : State) (kind : ErrorKind) (info : ErrorInfo) : State :=
  s.deliver (.err ⟨kind, info, []⟩)

/-- Several steps one after another. -/
def runSteps : Nat → State → Host.Outcome State Fault Refusal
  | 0, s => .next s
  | n + 1, s =>
    match step s with
    | .next t => runSteps n t
    | .fault e => .fault e
    | .refused e => .refused e

/-! ### Operands -/

/-- The operand checks of R222, steps 2 and 3: the shape of a burst, then the address or frequency range. -/
def operandsOk : Instr → Bool
  | .writeRegister a _ => decide (a ≤ lastAddr)
  | .readRegister a => decide (a ≤ lastAddr)
  | .burstWrite s vs => !vs.isEmpty && inRange s vs.length
  | .burstRead s n => decide (0 < n) && inRange s n.toNat
  | .setRxFrequency f => validHz f
  | .setTxFrequency f => validHz f
  | _ => true

/-- Can the block act on the operation now: no stuck call holds the lock, the transport is open, a controller
operation finds its controller `Ready` (R117, R185), `FXOSC` is legal (R152), and the addresses of
`DEFAULT_TABLE` are in range (R205). -/
def State.acceptsRegisterOp (s : State) (i : Instr) : Bool :=
  s.lockFree && (s.spiFor i).isOpen && (!i.isController || decide (s.ctl.phase = .ready))
    && legalFxosc s.cfg.fxosc && s.cfg.defaultTable.all (fun e => decide (e.1 ≤ lastAddr))
    && operandsOk i

/-- The value a register operation returns, from the data bytes it read: a byte as read, the bytes of a burst, a
frequency, a decoded record, and nothing for an operation that writes (R62). -/
def valueRead (fxosc : Nat) (bs : List Byte) : Instr → Value
  | .readRegister _ | .checkDevice | .probe | .getMode => .byte (bs.headD 0)
  | .burstRead _ _ => .bytes bs
  | .getRxFrequency | .getTxFrequency =>
    .hz (wordHz fxosc (joinWord (bs.headD 0) (bs.getD 1 0) (bs.getD 2 0)))
  | .getStatus => .status (decodeStatus (bs.headD 0))
  | .getVersion => .version (decodeVersion (bs.headD 0))
  | _ => .unit

/-- The operations that no other operation is read for (assumption 2): the frame decoder gives each back from
its pattern. A frequency or dB operand is then one that its pattern's code stands for. -/
def ownsFrames (fxosc : Nat) : Instr → Bool
  | .writeRegister a _ => decide (a < 0x80) && a != Reg.mode.addr
  | .readRegister a => decide (a < 0x80) && a != Reg.mode.addr && a != Reg.version.addr
      && a != Reg.stat.addr
  | .burstWrite s vs => decide (s < 0x80) && vs.length != 1
  | .burstRead s n => decide (s < 0x80) && decide (0 ≤ n) && n != 1
  | .checkDevice | .getRxFrequency | .getTxFrequency | .getMode | .getStatus
  | .initializeWithDefaults | .enableRx _ | .setModeSleep | .setModeStandby | .setModeRx
  | .setModeTx | .setModeTxFull | .setModeFullDuplex => true
  | .setRxFrequency f | .setTxFrequency f =>
    decide (tuningWord fxosc f < 2 ^ 24) && wordHz fxosc (tuningWord fxosc f) == f
  | .setMode m => !([NamedMode.sleep, .standby, .rx, .tx, .txFull, .fullDuplex].map NamedMode.value).contains m
  | .setLnaGain g => lnaDb (encodeLna g) == some g
  | .setDacGain g => (dacTable.map Prod.fst).contains g
  | _ => false

/-! ### Invariants -/

/-- The parts of a controller agree: `Ready` with both sub-resources open, or `NotReady` with both closed
(R64). -/
def Controller.isWhole (c : Controller) : Bool :=
  c.spi.isOpen == decide (c.phase = .ready) && c.gpio.isOpen == decide (c.phase = .ready)

/-- A result without an error, or with one of the shape of R219: a composite has members, none of them a composite,
and no other kind has members. -/
def Result.isWf : Result → Bool
  | .ok _ => true
  | .err e =>
    (e.kind == .compositeCloseError) == !e.members.isEmpty
      && e.members.all fun k => k != .compositeCloseError

/-- A result that is no `InvalidState` and has none among its members. -/
def Result.isReady : Result → Bool
  | .ok _ => true
  | .err e => e.kind != .invalidState && !e.members.contains .invalidState

/-- The result of a turn, where it has one, has the shape of R219. -/
def Turn.isWf : Turn → Bool
  | .reply _ => true
  | .result r => r.isWf

/-- The result of a turn, where it has one, is no `InvalidState`. -/
def Turn.isReady : Turn → Bool
  | .reply _ => true
  | .result r => r.isReady

/-- An open transport holds the handle of `SPI_DEVICE` in mode 0, with 8-bit words and `SPI_SPEED_HZ` (R26). -/
def Transport.handleHeld (p : Transport) (cfg : Config) : Bool :=
  !p.isOpen || decide (p = ⟨true, cfg.spiDevice, 0, 8, cfg.spiSpeedHz⟩)

/-- An open sequencer holds the two lines of its handle, and they are two (R28, R133). -/
def Gpio.linesHeld (g : Gpio) : Bool :=
  !g.isOpen || (g.lines.contains g.resetLine && g.lines.contains g.txrxLine && decide (g.resetLine ≠ g.txrxLine))

/-- The open components of an instance hold their handles, the controller's sequencer those of the configured chip and
lines (R26, R28). -/
def Instance.handlesHeld (n : Instance) (cfg : Config) : Bool :=
  n.ctl.spi.handleHeld cfg && n.alone.spi.handleHeld cfg && n.ctl.gpio.linesHeld && n.alone.gpio.linesHeld
    && (!n.ctl.gpio.isOpen || n.ctl.gpio.isWired cfg)

namespace State

/-- The 10 µs gap between any two transfers, with `spi.lastEnd` no earlier than the end of any and no later
than now (R27, R245). -/
def gapsKept (s : State) : Bool :=
  decide (s.xfers.Pairwise fun e e' => e.finish + gapNanos ≤ e'.start)
    && s.xfers.all (fun e => decide (e.start ≤ e.finish) &&
        match s.lastEnd with
        | some l => decide (e.finish ≤ l)
        | none => false)
    && match s.lastEnd with
      | some l => decide (l ≤ s.now)
      | none => true

/-- Every frame sent is one the block may send (R89, R97, R111). -/
def framesLegal (s : State) : Bool := s.frames.all legalFrame

/-- The record of known registers is in its canonical form (R69). -/
def memoryWf (s : State) : Bool := Memory.wf s.device.regs

/-- Every error returned has the shape of R219, and so has every one that an uninterrupted part of a call in progress
ended in. -/
def errorsWf (s : State) : Bool :=
  (s.returns.all fun r => r.result.isWf) && s.requests.all fun r => r.turns.all Turn.isWf

/-- No uninterrupted part of a call in progress ended in `InvalidState` (R220). -/
def turnsReady (s : State) : Bool := s.requests.all fun r => r.turns.all Turn.isReady

/-- The current controller's phase and sub-resources agree (R64). -/
def sessionWhole (s : State) : Bool := s.ctl.isWhole

/-- A call on the instance is stuck in the middle of its operation: it holds the lock, or, with
`SERIALIZED = false`, its request is stalled (R224). -/
def stuckOn (s : State) (id : Nat) : Bool :=
  s.owner.isSome || s.requests.any fun r => r.stalled && r.target == id

/-- The phase and the sub-resources of every controller agree, but for one that a stuck call is in the middle of
(R64). -/
def sessionsWhole (s : State) : Bool :=
  (s.stuckOn s.ctlId || s.ctl.isWhole) && s.parked.all fun p => s.stuckOn p.1 || p.2.ctl.isWhole

/-- The open components of every instance hold their handles, but for one that a stuck call is in the middle of (R26,
R28). -/
def handlesHeld (s : State) : Bool :=
  (s.stuckOn s.ctlId || (⟨s.ctl, s.alone⟩ : Instance).handlesHeld s.cfg)
    && s.parked.all fun p => s.stuckOn p.1 || p.2.handlesHeld s.cfg

end State

end Sys2Proof.Machine
end

