-- ==== Sys2Proof/Laws/Memory.lean ====
section
/-! SUPPORT. The register space: what a read gives after each operation, and the canonical form, which every
operation keeps. -/

namespace Sys2Proof.Machine

variable {α : Type}

/-! ### Lists of entries -/

@[simp] theorem lookupEntry_insertEntry (a b : Nat) (x : α) (m : List (Nat × α)) :
    lookupEntry b (insertEntry a x m) = if b = a then some x else lookupEntry b m := by
  induction m with
  | nil => simp only [insertEntry, lookupEntry, eq_comm]
  | cons e m ih =>
    obtain ⟨c, y⟩ := e
    simp only [insertEntry]
    split_ifs <;> simp_all [lookupEntry] <;> (try split_ifs) <;> (try simp_all) <;>
      (try intros) <;> omega

@[simp] theorem lookupEntry_filter (p : Nat → Bool) (b : Nat) (m : List (Nat × α)) :
    lookupEntry b (m.filter fun e => p e.1) = if p b then lookupEntry b m else none := by
  induction m with
  | nil => simp [lookupEntry]
  | cons e m ih =>
    by_cases h : e.1 = b <;> by_cases hp : p e.1 <;> simp_all [lookupEntry]

@[simp] theorem lookupEntry_eraseEntry (a b : Nat) (m : List (Nat × α)) :
    lookupEntry b (eraseEntry a m) = if b = a then none else lookupEntry b m := by
  have h := lookupEntry_filter (fun n => n != a) b m
  simp only [eraseEntry, h]
  by_cases hb : b = a <;> simp [hb]

theorem mem_insertEntry {a : Nat} {x : α} {e : Nat × α} {m : List (Nat × α)}
    (h : e ∈ insertEntry a x m) : e = (a, x) ∨ e ∈ m := by
  induction m with
  | nil => simp_all [insertEntry]
  | cons d m ih =>
    simp only [insertEntry] at h
    split_ifs at h <;> simp_all <;> tauto

theorem rising_insertEntry {a : Nat} {x : α} {m : List (Nat × α)} (h : risingEntries m) :
    risingEntries (insertEntry a x m) := by
  simp only [risingEntries, decide_eq_true_eq, List.pairwise_map] at *
  induction m with
  | nil => simp [insertEntry]
  | cons d m ih =>
    obtain ⟨c, y⟩ := d
    obtain ⟨hd, hm⟩ := List.pairwise_cons.1 h
    simp only [insertEntry]
    split_ifs with h₁ h₂
    · exact List.pairwise_cons.2 ⟨fun e he => by
        rcases List.mem_cons.1 he with rfl | he
        · exact h₁
        · exact h₁.trans (hd e he), h⟩
    · exact List.pairwise_cons.2 ⟨fun e he => h₂ ▸ hd e he, hm⟩
    · refine List.pairwise_cons.2 ⟨fun e he => ?_, ih hm⟩
      rcases mem_insertEntry he with rfl | he
      · simp only; omega
      · exact hd e he

theorem rising_filter {p : Nat × α → Bool} {m : List (Nat × α)} (h : risingEntries m) :
    risingEntries (m.filter p) := by
  simp only [risingEntries, decide_eq_true_eq, List.pairwise_map] at *
  exact h.sublist List.filter_sublist

namespace Memory

/-! ### Reads -/

@[simp] theorem read_write (a b : Nat) (v : Byte) (m : List Host.Cell) :
    read b (write a v m) = if b = a ∧ a ≤ lastAddr then some v else read b m := by
  unfold read write
  split_ifs with h h' h' <;> simp_all

@[simp] theorem read_forget (a b : Nat) (m : List Host.Cell) :
    read b (forget a m) = if b = a then none else read b m := by
  simp [read, forget]

/-- A run of writes changes no register outside it. -/
theorem read_writeRun_outside {a b : Nat} {vs : List Byte} {m : List Host.Cell}
    (h : b < a ∨ a + vs.length ≤ b) : read b (writeRun a vs m) = read b m := by
  induction vs generalizing a m with
  | nil => rfl
  | cons v vs ih =>
    simp only [List.length_cons] at h
    rw [writeRun, ih (by omega)]
    split_ifs
    · rfl
    · rw [read_write, if_neg (by omega)]

/-- A run of writes puts each byte at its address, but at VERSION and STAT. -/
theorem read_writeRun_inside {a k : Nat} {vs : List Byte} {m : List Host.Cell} (hk : k < vs.length)
    (hr : a + k ≤ lastAddr) (hv : a + k ≠ Reg.version.addr) (hs : a + k ≠ Reg.stat.addr) :
    read (a + k) (writeRun a vs m) = vs[k]? := by
  induction vs generalizing a k m with
  | nil => simp at hk
  | cons v vs ih =>
    rw [writeRun]
    cases k with
    | zero =>
      rw [read_writeRun_outside (by omega), if_neg (by simp_all)]
      simp_all
    | succ k =>
      have := @ih (a + 1) k (if a = Reg.version.addr ∨ a = Reg.stat.addr then m else write a v m)
        (by simpa using hk) (by omega) (by omega) (by omega)
      simpa [Nat.add_right_comm, Nat.add_assoc, Nat.add_comm 1 k] using this

theorem read_forgetRun (a b n : Nat) (m : List Host.Cell) :
    read b (forgetRun a n m) = if a ≤ b ∧ b < a + n then none else read b m := by
  induction n generalizing a m with
  | zero => simp [forgetRun]
  | succ n ih =>
    rw [forgetRun, ih, read_forget]
    split_ifs <;> first | rfl | omega

@[simp] theorem read_heldInReset (b : Nat) (m : List Host.Cell) :
    read b (heldInReset m)
      = if b = Reg.version.addr ∨ b = Reg.stat.addr then read b m else none := by
  have h := lookupEntry_filter (fun n => n == Reg.version.addr || n == Reg.stat.addr) b m
  simp only [read, heldInReset, h]
  by_cases h1 : b = Reg.version.addr <;> by_cases h2 : b = Reg.stat.addr <;> simp [h1, h2]

/-! ### The canonical form -/

theorem wf_iff {m : List Host.Cell} :
    wf m ↔ risingEntries m ∧ ∀ e ∈ m, e.1 ≤ lastAddr := by simp [wf]

theorem wf_nil : wf [] := by decide

theorem wf_filter {p : Host.Cell → Bool} {m : List Host.Cell} (h : wf m) : wf (m.filter p) :=
  wf_iff.2 ⟨rising_filter (wf_iff.1 h).1, fun e he => (wf_iff.1 h).2 e (List.mem_filter.1 he).1⟩

theorem wf_write {a : Nat} {v : Byte} {m : List Host.Cell} (h : wf m) : wf (write a v m) := by
  unfold write
  split_ifs with ha
  · refine wf_iff.2 ⟨rising_insertEntry (wf_iff.1 h).1, fun e he => ?_⟩
    rcases mem_insertEntry he with rfl | he
    · exact ha
    · exact (wf_iff.1 h).2 e he
  · exact h

theorem wf_forget {a : Nat} {m : List Host.Cell} (h : wf m) : wf (forget a m) := wf_filter h

theorem wf_writeRun {a : Nat} {vs : List Byte} {m : List Host.Cell} (h : wf m) :
    wf (writeRun a vs m) := by
  induction vs generalizing a m with
  | nil => exact h
  | cons v vs ih =>
    rw [writeRun]
    split_ifs
    · exact ih h
    · exact ih (wf_write h)

theorem wf_forgetRun {a n : Nat} {m : List Host.Cell} (h : wf m) : wf (forgetRun a n m) := by
  induction n generalizing a m with
  | zero => exact h
  | succ n ih => exact ih (wf_forget h)

theorem wf_heldInReset {m : List Host.Cell} (h : wf m) : wf (heldInReset m) := wf_filter h

theorem wf_afterDeviceReset {d m : List Host.Cell} (h : wf m) : wf (afterDeviceReset d m) := by
  unfold afterDeviceReset
  generalize hm : heldInReset m = m'
  have h' : wf m' := hm ▸ wf_heldInReset h
  clear hm
  induction d generalizing m' with
  | nil => exact h'
  | cons e d ih =>
    simp only [List.foldl_cons]
    refine ih _ ?_
    split_ifs
    · exact h'
    · exact wf_write h'

end Memory

end Sys2Proof.Machine
end

