-- ==== Sys2Proof/Laws/Device.lean ====
section
/-! SUPPORT. What the device's side of a primitive changes: registers only on the bus, and the canonical form
always kept. -/

namespace Sys2Proof.Machine.Device

/-! ### The lines are no part of a transfer -/

/-- What a transfer of unknown effect does: nothing stays known, or the frame's targets are forgotten. -/
theorem forget_cases (d : Device) (t : Nat) (tx : Frame) :
    (d.hazard t = true ∧ d.forget t tx = { d with regs := [] }) ∨
      (d.hazard t = false ∧ d.forget t tx = { d with
        regs := match tx with
          | [] => d.regs
          | b :: ds => Memory.forgetRun (frameAddr b) ds.length d.regs }) := by
  cases h : d.hazard t <;> cases tx <;> simp [forget, h]

@[simp] theorem forget_held (d : Device) (t : Nat) (tx : Frame) : (d.forget t tx).held = d.held := by
  rcases forget_cases d t tx with ⟨_, h⟩ | ⟨_, h⟩ <;> simp [h]

@[simp] theorem forget_resetPin (d : Device) (t : Nat) (tx : Frame) :
    (d.forget t tx).resetPin = d.resetPin := by
  rcases forget_cases d t tx with ⟨_, h⟩ | ⟨_, h⟩ <;> simp [h]

@[simp] theorem forget_txrxPin (d : Device) (t : Nat) (tx : Frame) :
    (d.forget t tx).txrxPin = d.txrxPin := by
  rcases forget_cases d t tx with ⟨_, h⟩ | ⟨_, h⟩ <;> simp [h]

@[simp] theorem forget_rose (d : Device) (t : Nat) (tx : Frame) : (d.forget t tx).rose = d.rose := by
  rcases forget_cases d t tx with ⟨_, h⟩ | ⟨_, h⟩ <;> simp [h]

@[simp] theorem forget_fell (d : Device) (t : Nat) (tx : Frame) : (d.forget t tx).fell = d.fell := by
  rcases forget_cases d t tx with ⟨_, h⟩ | ⟨_, h⟩ <;> simp [h]

/-- The device after a completed exchange: of unknown effect, as before, or with its targets written. -/
theorem accept_cases (d : Device) (t : Nat) (tx : Frame) (complete : Bool) :
    d.accept t tx complete = d.forget t tx ∨ d.hazard t = false ∧ (d.accept t tx complete = d ∨
      ∃ b ds, tx = b :: ds ∧ isWrite b ∧
        d.accept t tx complete = { d with regs := Memory.writeRun (frameAddr b) ds d.regs }) := by
  unfold accept
  split_ifs with h
  · exact .inl rfl
  · refine .inr ⟨by cases hz : d.hazard t <;> simp_all, ?_⟩
    cases tx with
    | nil => exact .inl rfl
    | cons b ds =>
      by_cases hb : isWrite b
      · exact .inr ⟨b, ds, rfl, hb, by simp [hb]⟩
      · exact .inl (by simp [hb])

/-- A hazard leaves no register known, whatever the transfer (R248). -/
theorem accept_hazard {d : Device} {t : Nat} (tx : Frame) (complete : Bool) (h : d.hazard t = true) :
    d.accept t tx complete = { d with regs := [] } := by simp [accept, forget, h]

@[simp] theorem accept_held (d : Device) (t : Nat) (tx : Frame) (c : Bool) :
    (d.accept t tx c).held = d.held := by
  rcases accept_cases d t tx c with h | ⟨_, h | ⟨_, _, _, _, h⟩⟩ <;> simp [h]

@[simp] theorem accept_resetPin (d : Device) (t : Nat) (tx : Frame) (c : Bool) :
    (d.accept t tx c).resetPin = d.resetPin := by
  rcases accept_cases d t tx c with h | ⟨_, h | ⟨_, _, _, _, h⟩⟩ <;> simp [h]

@[simp] theorem accept_txrxPin (d : Device) (t : Nat) (tx : Frame) (c : Bool) :
    (d.accept t tx c).txrxPin = d.txrxPin := by
  rcases accept_cases d t tx c with h | ⟨_, h | ⟨_, _, _, _, h⟩⟩ <;> simp [h]

@[simp] theorem accept_rose (d : Device) (t : Nat) (tx : Frame) (c : Bool) :
    (d.accept t tx c).rose = d.rose := by
  rcases accept_cases d t tx c with h | ⟨_, h | ⟨_, _, _, _, h⟩⟩ <;> simp [h]

@[simp] theorem accept_fell (d : Device) (t : Nat) (tx : Frame) (c : Bool) :
    (d.accept t tx c).fell = d.fell := by
  rcases accept_cases d t tx c with h | ⟨_, h | ⟨_, _, _, _, h⟩⟩ <;> simp [h]

/-! ### The registers -/

/-- Outside a hazard, a frame's targets, and no other register, are forgotten. -/
theorem read_forget_outside {d : Device} {t : Nat} {b : Byte} {ds : List Byte} {a : Nat}
    (hz : d.hazard t = false) (h : a < frameAddr b ∨ frameAddr b + ds.length ≤ a) :
    Memory.read a (d.forget t (b :: ds)).regs = Memory.read a d.regs := by
  simp only [forget, hz, Bool.false_eq_true, if_false, Memory.read_forgetRun]
  rw [if_neg (by omega)]

/-- Outside a hazard, no register outside a frame's targets is changed by its exchange. -/
theorem read_accept_outside {d : Device} {t : Nat} {b : Byte} {ds : List Byte} {c : Bool} {a : Nat}
    (hz : d.hazard t = false) (h : a < frameAddr b ∨ frameAddr b + ds.length ≤ a) :
    Memory.read a (d.accept t (b :: ds) c).regs = Memory.read a d.regs := by
  rcases accept_cases d t (b :: ds) c with e | ⟨_, e | ⟨b', ds', heq, _, e⟩⟩
  · rw [e, read_forget_outside hz h]
  · rw [e]
  · obtain ⟨rfl, rfl⟩ := List.cons.inj heq
    rw [e]
    exact Memory.read_writeRun_outside h

theorem wf_forget {d : Device} {t : Nat} {tx : Frame} (h : Memory.wf d.regs) :
    Memory.wf (d.forget t tx).regs := by
  rcases forget_cases d t tx with ⟨_, e⟩ | ⟨_, e⟩ <;> rw [e]
  · rfl
  · cases tx with
    | nil => exact h
    | cons b ds => exact Memory.wf_forgetRun h

theorem wf_accept {d : Device} {t : Nat} {tx : Frame} {c : Bool} (h : Memory.wf d.regs) :
    Memory.wf (d.accept t tx c).regs := by
  rcases accept_cases d t tx c with e | ⟨_, e | ⟨_, _, _, _, e⟩⟩ <;> rw [e]
  · exact wf_forget h
  · exact h
  · exact Memory.wf_writeRun h

theorem wf_moveReset {d : Device} {defaults : List Host.Cell} {t : Nat} {l : Bool}
    (h : Memory.wf d.regs) : Memory.wf (d.moveReset defaults t l).regs := by
  unfold moveReset
  split
  · exact Memory.wf_heldInReset h
  · dsimp only
    split_ifs
    · exact Memory.wf_afterDeviceReset h
    · exact Memory.wf_heldInReset h
  · exact h
  · exact h

/-- A line request keeps the registers as they were (R147, R243). -/
@[simp] theorem startLow_regs (d : Device) (t : Nat) : (d.startLow t).regs = d.regs := rfl

/-- A line request leaves the reset line low, and the device out of reset (R133, R147). -/
@[simp] theorem startLow_resetPin (d : Device) (t : Nat) : (d.startLow t).resetPin = false := rfl

@[simp] theorem startLow_held (d : Device) (t : Nat) : (d.startLow t).held = false := rfl

@[simp] theorem startLow_txrxPin (d : Device) (t : Nat) : (d.startLow t).txrxPin = d.txrxPin := rfl

/-- A line request that ends a high level is a fall of the line (R248). -/
@[simp] theorem startLow_fell (d : Device) (t : Nat) : (d.startLow t).fell = d.fallen t := rfl

@[simp] theorem fallen_high {d : Device} (t : Nat) (h : d.resetPin = true ∨ d.held = true) :
    d.fallen t = some t := by rcases h with h | h <;> simp [fallen, h]

/-- A release keeps the registers as they were (R257). -/
@[simp] theorem float_regs (d : Device) (t : Nat) (l : Bool) : (d.float t l).regs = d.regs := rfl

@[simp] theorem float_held (d : Device) (t : Nat) (l : Bool) : (d.float t l).held = d.held := rfl

@[simp] theorem float_resetPin (d : Device) (t : Nat) (l : Bool) : (d.float t l).resetPin = l := rfl

@[simp] theorem float_txrxPin (d : Device) (t : Nat) (l : Bool) : (d.float t l).txrxPin = d.txrxPin := rfl

/-- While the reset line is high every transfer is a hazard (R248). -/
theorem hazard_of_high {d : Device} (t : Nat) (h : d.resetPin = true) : d.hazard t = true := by
  simp [hazard, h]

@[simp] theorem moveReset_resetPin (d : Device) (defaults : List Host.Cell) (t : Nat) (l : Bool) :
    (d.moveReset defaults t l).resetPin = l := by
  unfold moveReset; split <;> rfl

@[simp] theorem moveReset_txrxPin (d : Device) (defaults : List Host.Cell) (t : Nat) (l : Bool) :
    (d.moveReset defaults t l).txrxPin = d.txrxPin := by
  unfold moveReset; split <;> rfl

/-! ### The response -/

@[simp] theorem length_overlay (m : List Host.Cell) (a : Nat) (xs : List Byte) :
    (overlay m a xs).length = xs.length := by
  induction xs generalizing a with
  | nil => rfl
  | cons x xs ih => simp [overlay, ih]

/-- The device never changes the length of a response. -/
@[simp] theorem length_respond (d : Device) (c : Bool) (t : Nat) (tx rx : Frame) :
    (d.respond c t tx rx).length = rx.length := by
  unfold respond
  split_ifs
  · split
    · split_ifs <;> simp
    · rfl
  · rfl

/-- In the normative model the response is the draw (R40). -/
@[simp] theorem respond_normative (d : Device) (t : Nat) (tx rx : Frame) :
    d.respond false t tx rx = rx := by simp [respond]

end Sys2Proof.Machine.Device
end

