-- ==== Sys2Proof/Laws/State.lean ====
section
/-! SUPPORT. One lemma for each field and each named update of the state: what the update leaves alone, and
what it puts there. -/

namespace Sys2Proof.Machine.State

/-! ### consume -/

@[simp] theorem consume_cfg (s : State) :
    (s.consume).cfg = s.cfg := rfl

@[simp] theorem consume_ctl (s : State) :
    (s.consume).ctl = s.ctl := rfl

@[simp] theorem consume_alone (s : State) :
    (s.consume).alone = s.alone := rfl

@[simp] theorem consume_ctlId (s : State) :
    (s.consume).ctlId = s.ctlId := rfl

@[simp] theorem consume_parked (s : State) :
    (s.consume).parked = s.parked := rfl

@[simp] theorem consume_lastEnd (s : State) :
    (s.consume).lastEnd = s.lastEnd := rfl

@[simp] theorem consume_owner (s : State) :
    (s.consume).owner = s.owner := rfl

@[simp] theorem consume_caller (s : State) :
    (s.consume).caller = s.caller := rfl

@[simp] theorem consume_device (s : State) :
    (s.consume).device = s.device := rfl

@[simp] theorem consume_now (s : State) :
    (s.consume).now = s.now := rfl

@[simp] theorem consume_trace (s : State) :
    (s.consume).trace = s.trace := rfl

@[simp] theorem consume_returns (s : State) :
    (s.consume).returns = s.returns := rfl

@[simp] theorem consume_requests (s : State) :
    (s.consume).requests = s.requests := rfl

@[simp] theorem consume_schedule (s : State) :
    (s.consume).schedule = s.schedule := rfl

@[simp] theorem consume_picked (s : State) :
    (s.consume).picked = s.picked := rfl

/-! ### emit -/

@[simp] theorem emit_cfg (s : State) (a b : Nat) (ev : Event) (ok : Bool) :
    (s.emit a b ev ok).cfg = s.cfg := rfl

@[simp] theorem emit_ctl (s : State) (a b : Nat) (ev : Event) (ok : Bool) :
    (s.emit a b ev ok).ctl = s.ctl := rfl

@[simp] theorem emit_alone (s : State) (a b : Nat) (ev : Event) (ok : Bool) :
    (s.emit a b ev ok).alone = s.alone := rfl

@[simp] theorem emit_ctlId (s : State) (a b : Nat) (ev : Event) (ok : Bool) :
    (s.emit a b ev ok).ctlId = s.ctlId := rfl

@[simp] theorem emit_parked (s : State) (a b : Nat) (ev : Event) (ok : Bool) :
    (s.emit a b ev ok).parked = s.parked := rfl

@[simp] theorem emit_lastEnd (s : State) (a b : Nat) (ev : Event) (ok : Bool) :
    (s.emit a b ev ok).lastEnd = s.lastEnd := rfl

@[simp] theorem emit_owner (s : State) (a b : Nat) (ev : Event) (ok : Bool) :
    (s.emit a b ev ok).owner = s.owner := rfl

@[simp] theorem emit_caller (s : State) (a b : Nat) (ev : Event) (ok : Bool) :
    (s.emit a b ev ok).caller = s.caller := rfl

@[simp] theorem emit_device (s : State) (a b : Nat) (ev : Event) (ok : Bool) :
    (s.emit a b ev ok).device = s.device := rfl

@[simp] theorem emit_inputs (s : State) (a b : Nat) (ev : Event) (ok : Bool) :
    (s.emit a b ev ok).inputs = s.inputs := rfl

@[simp] theorem emit_drawn (s : State) (a b : Nat) (ev : Event) (ok : Bool) :
    (s.emit a b ev ok).drawn = s.drawn := rfl

@[simp] theorem emit_returns (s : State) (a b : Nat) (ev : Event) (ok : Bool) :
    (s.emit a b ev ok).returns = s.returns := rfl

@[simp] theorem emit_requests (s : State) (a b : Nat) (ev : Event) (ok : Bool) :
    (s.emit a b ev ok).requests = s.requests := rfl

@[simp] theorem emit_schedule (s : State) (a b : Nat) (ev : Event) (ok : Bool) :
    (s.emit a b ev ok).schedule = s.schedule := rfl

@[simp] theorem emit_picked (s : State) (a b : Nat) (ev : Event) (ok : Bool) :
    (s.emit a b ev ok).picked = s.picked := rfl

@[simp] theorem emit_now (s : State) (a b : Nat) (ev : Event) (ok : Bool) :
    (s.emit a b ev ok).now = b := rfl

@[simp] theorem emit_trace (s : State) (a b : Nat) (ev : Event) (ok : Bool) :
    (s.emit a b ev ok).trace = s.trace ++ [⟨a, b, s.caller, ev, ok⟩] := rfl

/-! ### awaitBus -/

@[simp] theorem awaitBus_cfg (s : State) :
    (s.awaitBus).cfg = s.cfg := by
  unfold awaitBus; (repeat' split) <;> rfl

@[simp] theorem awaitBus_ctl (s : State) :
    (s.awaitBus).ctl = s.ctl := by
  unfold awaitBus; (repeat' split) <;> rfl

@[simp] theorem awaitBus_alone (s : State) :
    (s.awaitBus).alone = s.alone := by
  unfold awaitBus; (repeat' split) <;> rfl

@[simp] theorem awaitBus_ctlId (s : State) :
    (s.awaitBus).ctlId = s.ctlId := by
  unfold awaitBus; (repeat' split) <;> rfl

@[simp] theorem awaitBus_parked (s : State) :
    (s.awaitBus).parked = s.parked := by
  unfold awaitBus; (repeat' split) <;> rfl

@[simp] theorem awaitBus_lastEnd (s : State) :
    (s.awaitBus).lastEnd = s.lastEnd := by
  unfold awaitBus; (repeat' split) <;> rfl

@[simp] theorem awaitBus_owner (s : State) :
    (s.awaitBus).owner = s.owner := by
  unfold awaitBus; (repeat' split) <;> rfl

@[simp] theorem awaitBus_caller (s : State) :
    (s.awaitBus).caller = s.caller := by
  unfold awaitBus; (repeat' split) <;> rfl

@[simp] theorem awaitBus_device (s : State) :
    (s.awaitBus).device = s.device := by
  unfold awaitBus; (repeat' split) <;> rfl

@[simp] theorem awaitBus_inputs (s : State) :
    (s.awaitBus).inputs = s.inputs := by
  unfold awaitBus; (repeat' split) <;> rfl

@[simp] theorem awaitBus_drawn (s : State) :
    (s.awaitBus).drawn = s.drawn := by
  unfold awaitBus; (repeat' split) <;> rfl

@[simp] theorem awaitBus_returns (s : State) :
    (s.awaitBus).returns = s.returns := by
  unfold awaitBus; (repeat' split) <;> rfl

@[simp] theorem awaitBus_requests (s : State) :
    (s.awaitBus).requests = s.requests := by
  unfold awaitBus; (repeat' split) <;> rfl

@[simp] theorem awaitBus_schedule (s : State) :
    (s.awaitBus).schedule = s.schedule := by
  unfold awaitBus; (repeat' split) <;> rfl

@[simp] theorem awaitBus_picked (s : State) :
    (s.awaitBus).picked = s.picked := by
  unfold awaitBus; (repeat' split) <;> rfl

/-! ### write, setLines, setChip, configureSpi -/

@[simp] theorem write_cfg (s : State) (w : Write) :
    (s.write w).cfg = s.cfg := rfl

@[simp] theorem write_ctl (s : State) (w : Write) :
    (s.write w).ctl = w.apply s.ctl := rfl

@[simp] theorem write_alone (s : State) (w : Write) :
    (s.write w).alone = s.alone := rfl

@[simp] theorem write_ctlId (s : State) (w : Write) :
    (s.write w).ctlId = s.ctlId := rfl

@[simp] theorem write_parked (s : State) (w : Write) :
    (s.write w).parked = s.parked := rfl

@[simp] theorem write_lastEnd (s : State) (w : Write) :
    (s.write w).lastEnd = s.lastEnd := rfl

@[simp] theorem write_owner (s : State) (w : Write) :
    (s.write w).owner = s.owner := rfl

@[simp] theorem write_caller (s : State) (w : Write) :
    (s.write w).caller = s.caller := rfl

@[simp] theorem write_device (s : State) (w : Write) :
    (s.write w).device = s.device := rfl

@[simp] theorem write_now (s : State) (w : Write) :
    (s.write w).now = s.now := rfl

@[simp] theorem write_inputs (s : State) (w : Write) :
    (s.write w).inputs = s.inputs := rfl

@[simp] theorem write_drawn (s : State) (w : Write) :
    (s.write w).drawn = s.drawn := rfl

@[simp] theorem write_trace (s : State) (w : Write) :
    (s.write w).trace = s.trace := rfl

@[simp] theorem write_returns (s : State) (w : Write) :
    (s.write w).returns = s.returns := rfl

@[simp] theorem write_requests (s : State) (w : Write) :
    (s.write w).requests = s.requests := rfl

@[simp] theorem write_schedule (s : State) (w : Write) :
    (s.write w).schedule = s.schedule := rfl

@[simp] theorem write_picked (s : State) (w : Write) :
    (s.write w).picked = s.picked := rfl

@[simp] theorem setLines_cfg (s : State) (l : List Nat) :
    (s.setLines l).cfg = s.cfg := rfl

@[simp] theorem setLines_alone (s : State) (l : List Nat) :
    (s.setLines l).alone = s.alone := rfl

@[simp] theorem setLines_ctlId (s : State) (l : List Nat) :
    (s.setLines l).ctlId = s.ctlId := rfl

@[simp] theorem setLines_parked (s : State) (l : List Nat) :
    (s.setLines l).parked = s.parked := rfl

@[simp] theorem setLines_lastEnd (s : State) (l : List Nat) :
    (s.setLines l).lastEnd = s.lastEnd := rfl

@[simp] theorem setLines_owner (s : State) (l : List Nat) :
    (s.setLines l).owner = s.owner := rfl

@[simp] theorem setLines_caller (s : State) (l : List Nat) :
    (s.setLines l).caller = s.caller := rfl

@[simp] theorem setLines_device (s : State) (l : List Nat) :
    (s.setLines l).device = s.device := rfl

@[simp] theorem setLines_now (s : State) (l : List Nat) :
    (s.setLines l).now = s.now := rfl

@[simp] theorem setLines_inputs (s : State) (l : List Nat) :
    (s.setLines l).inputs = s.inputs := rfl

@[simp] theorem setLines_drawn (s : State) (l : List Nat) :
    (s.setLines l).drawn = s.drawn := rfl

@[simp] theorem setLines_trace (s : State) (l : List Nat) :
    (s.setLines l).trace = s.trace := rfl

@[simp] theorem setLines_returns (s : State) (l : List Nat) :
    (s.setLines l).returns = s.returns := rfl

@[simp] theorem setLines_requests (s : State) (l : List Nat) :
    (s.setLines l).requests = s.requests := rfl

@[simp] theorem setLines_schedule (s : State) (l : List Nat) :
    (s.setLines l).schedule = s.schedule := rfl

@[simp] theorem setLines_picked (s : State) (l : List Nat) :
    (s.setLines l).picked = s.picked := rfl

@[simp] theorem setChip_cfg (s : State) (c : Path) :
    (s.setChip c).cfg = s.cfg := rfl

@[simp] theorem setChip_alone (s : State) (c : Path) :
    (s.setChip c).alone = s.alone := rfl

@[simp] theorem setChip_ctlId (s : State) (c : Path) :
    (s.setChip c).ctlId = s.ctlId := rfl

@[simp] theorem setChip_parked (s : State) (c : Path) :
    (s.setChip c).parked = s.parked := rfl

@[simp] theorem setChip_lastEnd (s : State) (c : Path) :
    (s.setChip c).lastEnd = s.lastEnd := rfl

@[simp] theorem setChip_owner (s : State) (c : Path) :
    (s.setChip c).owner = s.owner := rfl

@[simp] theorem setChip_caller (s : State) (c : Path) :
    (s.setChip c).caller = s.caller := rfl

@[simp] theorem setChip_device (s : State) (c : Path) :
    (s.setChip c).device = s.device := rfl

@[simp] theorem setChip_now (s : State) (c : Path) :
    (s.setChip c).now = s.now := rfl

@[simp] theorem setChip_inputs (s : State) (c : Path) :
    (s.setChip c).inputs = s.inputs := rfl

@[simp] theorem setChip_drawn (s : State) (c : Path) :
    (s.setChip c).drawn = s.drawn := rfl

@[simp] theorem setChip_trace (s : State) (c : Path) :
    (s.setChip c).trace = s.trace := rfl

@[simp] theorem setChip_returns (s : State) (c : Path) :
    (s.setChip c).returns = s.returns := rfl

@[simp] theorem setChip_requests (s : State) (c : Path) :
    (s.setChip c).requests = s.requests := rfl

@[simp] theorem setChip_schedule (s : State) (c : Path) :
    (s.setChip c).schedule = s.schedule := rfl

@[simp] theorem setChip_picked (s : State) (c : Path) :
    (s.setChip c).picked = s.picked := rfl

@[simp] theorem configureSpi_cfg (s : State) :
    (s.configureSpi).cfg = s.cfg := rfl

@[simp] theorem configureSpi_alone (s : State) :
    (s.configureSpi).alone = s.alone := rfl

@[simp] theorem configureSpi_ctlId (s : State) :
    (s.configureSpi).ctlId = s.ctlId := rfl

@[simp] theorem configureSpi_parked (s : State) :
    (s.configureSpi).parked = s.parked := rfl

@[simp] theorem configureSpi_lastEnd (s : State) :
    (s.configureSpi).lastEnd = s.lastEnd := rfl

@[simp] theorem configureSpi_owner (s : State) :
    (s.configureSpi).owner = s.owner := rfl

@[simp] theorem configureSpi_caller (s : State) :
    (s.configureSpi).caller = s.caller := rfl

@[simp] theorem configureSpi_device (s : State) :
    (s.configureSpi).device = s.device := rfl

@[simp] theorem configureSpi_now (s : State) :
    (s.configureSpi).now = s.now := rfl

@[simp] theorem configureSpi_inputs (s : State) :
    (s.configureSpi).inputs = s.inputs := rfl

@[simp] theorem configureSpi_drawn (s : State) :
    (s.configureSpi).drawn = s.drawn := rfl

@[simp] theorem configureSpi_trace (s : State) :
    (s.configureSpi).trace = s.trace := rfl

@[simp] theorem configureSpi_returns (s : State) :
    (s.configureSpi).returns = s.returns := rfl

@[simp] theorem configureSpi_requests (s : State) :
    (s.configureSpi).requests = s.requests := rfl

@[simp] theorem configureSpi_schedule (s : State) :
    (s.configureSpi).schedule = s.schedule := rfl

@[simp] theorem configureSpi_picked (s : State) :
    (s.configureSpi).picked = s.picked := rfl

/-! ### wire -/

@[simp] theorem wire_cfg (s : State) (l : Nat) (f : Device → Device) (b : Bool) :
    (s.wire l f b).cfg = s.cfg := by
  unfold wire; (repeat' split) <;> rfl

@[simp] theorem wire_ctl (s : State) (l : Nat) (f : Device → Device) (b : Bool) :
    (s.wire l f b).ctl = s.ctl := by
  unfold wire; (repeat' split) <;> rfl

@[simp] theorem wire_alone (s : State) (l : Nat) (f : Device → Device) (b : Bool) :
    (s.wire l f b).alone = s.alone := by
  unfold wire; (repeat' split) <;> rfl

@[simp] theorem wire_ctlId (s : State) (l : Nat) (f : Device → Device) (b : Bool) :
    (s.wire l f b).ctlId = s.ctlId := by
  unfold wire; (repeat' split) <;> rfl

@[simp] theorem wire_parked (s : State) (l : Nat) (f : Device → Device) (b : Bool) :
    (s.wire l f b).parked = s.parked := by
  unfold wire; (repeat' split) <;> rfl

@[simp] theorem wire_lastEnd (s : State) (l : Nat) (f : Device → Device) (b : Bool) :
    (s.wire l f b).lastEnd = s.lastEnd := by
  unfold wire; (repeat' split) <;> rfl

@[simp] theorem wire_owner (s : State) (l : Nat) (f : Device → Device) (b : Bool) :
    (s.wire l f b).owner = s.owner := by
  unfold wire; (repeat' split) <;> rfl

@[simp] theorem wire_caller (s : State) (l : Nat) (f : Device → Device) (b : Bool) :
    (s.wire l f b).caller = s.caller := by
  unfold wire; (repeat' split) <;> rfl

@[simp] theorem wire_now (s : State) (l : Nat) (f : Device → Device) (b : Bool) :
    (s.wire l f b).now = s.now := by
  unfold wire; (repeat' split) <;> rfl

@[simp] theorem wire_inputs (s : State) (l : Nat) (f : Device → Device) (b : Bool) :
    (s.wire l f b).inputs = s.inputs := by
  unfold wire; (repeat' split) <;> rfl

@[simp] theorem wire_drawn (s : State) (l : Nat) (f : Device → Device) (b : Bool) :
    (s.wire l f b).drawn = s.drawn := by
  unfold wire; (repeat' split) <;> rfl

@[simp] theorem wire_trace (s : State) (l : Nat) (f : Device → Device) (b : Bool) :
    (s.wire l f b).trace = s.trace := by
  unfold wire; (repeat' split) <;> rfl

@[simp] theorem wire_returns (s : State) (l : Nat) (f : Device → Device) (b : Bool) :
    (s.wire l f b).returns = s.returns := by
  unfold wire; (repeat' split) <;> rfl

@[simp] theorem wire_requests (s : State) (l : Nat) (f : Device → Device) (b : Bool) :
    (s.wire l f b).requests = s.requests := by
  unfold wire; (repeat' split) <;> rfl

@[simp] theorem wire_schedule (s : State) (l : Nat) (f : Device → Device) (b : Bool) :
    (s.wire l f b).schedule = s.schedule := by
  unfold wire; (repeat' split) <;> rfl

@[simp] theorem wire_picked (s : State) (l : Nat) (f : Device → Device) (b : Bool) :
    (s.wire l f b).picked = s.picked := by
  unfold wire; (repeat' split) <;> rfl

/-- What a line's level does to the device: the reset line what it does, the TX/RX line its pin, any other
nothing. -/
theorem wire_device (s : State) (l : Nat) (f : Device → Device) (b : Bool) :
    (s.wire l f b).device = f s.device ∨ (s.wire l f b).device = { s.device with txrxPin := b } ∨
      (s.wire l f b).device = s.device := by
  unfold wire; (repeat' split) <;> simp

/-- The reset line of the configured chip is wired to the reset pin (R242). -/
theorem wire_resetLine {s : State} (f : Device → Device) (b : Bool)
    (hc : s.ctl.gpio.chip = s.cfg.gpioChip) :
    (s.wire s.cfg.resetLine f b).device = f s.device := by simp [wire, hc]

/-- The TX/RX line of the configured chip is wired to the TX/RX pin (R242). -/
theorem wire_txrxLine {s : State} (f : Device → Device) (b : Bool)
    (hc : s.ctl.gpio.chip = s.cfg.gpioChip) (hl : s.cfg.txrxLine ≠ s.cfg.resetLine) :
    (s.wire s.cfg.txrxLine f b).device = { s.device with txrxPin := b } := by simp [wire, hc, hl]

/-! ### disturbLine -/

/-- What a failed or stalled write does to its line: nothing, or a level on it. -/
theorem disturbLine_cases (s : State) (l : Nat) (b : Bool) :
    s.disturbLine l b = s ∨ s.disturbLine l b = s.moveLine l b := by
  unfold disturbLine; split <;> simp

@[simp] theorem disturbLine_open {s : State} (h : s.ctl.gpio.isOpen = true) (l : Nat) (b : Bool) :
    s.disturbLine l b = s.moveLine l b := by simp [disturbLine, h]

@[simp] theorem disturbLine_closed {s : State} (h : s.ctl.gpio.isOpen = false) (l : Nat) (b : Bool) :
    s.disturbLine l b = s := by simp [disturbLine, h]

@[simp] theorem disturbLine_cfg (s : State) (l : Nat) (b : Bool) :
    (s.disturbLine l b).cfg = s.cfg := by
  rcases s.disturbLine_cases l b with e | e <;> simp [e]

@[simp] theorem disturbLine_ctl (s : State) (l : Nat) (b : Bool) :
    (s.disturbLine l b).ctl = s.ctl := by
  rcases s.disturbLine_cases l b with e | e <;> simp [e]

@[simp] theorem disturbLine_alone (s : State) (l : Nat) (b : Bool) :
    (s.disturbLine l b).alone = s.alone := by
  rcases s.disturbLine_cases l b with e | e <;> simp [e]

@[simp] theorem disturbLine_ctlId (s : State) (l : Nat) (b : Bool) :
    (s.disturbLine l b).ctlId = s.ctlId := by
  rcases s.disturbLine_cases l b with e | e <;> simp [e]

@[simp] theorem disturbLine_parked (s : State) (l : Nat) (b : Bool) :
    (s.disturbLine l b).parked = s.parked := by
  rcases s.disturbLine_cases l b with e | e <;> simp [e]

@[simp] theorem disturbLine_lastEnd (s : State) (l : Nat) (b : Bool) :
    (s.disturbLine l b).lastEnd = s.lastEnd := by
  rcases s.disturbLine_cases l b with e | e <;> simp [e]

@[simp] theorem disturbLine_owner (s : State) (l : Nat) (b : Bool) :
    (s.disturbLine l b).owner = s.owner := by
  rcases s.disturbLine_cases l b with e | e <;> simp [e]

@[simp] theorem disturbLine_caller (s : State) (l : Nat) (b : Bool) :
    (s.disturbLine l b).caller = s.caller := by
  rcases s.disturbLine_cases l b with e | e <;> simp [e]

@[simp] theorem disturbLine_now (s : State) (l : Nat) (b : Bool) :
    (s.disturbLine l b).now = s.now := by
  rcases s.disturbLine_cases l b with e | e <;> simp [e]

@[simp] theorem disturbLine_inputs (s : State) (l : Nat) (b : Bool) :
    (s.disturbLine l b).inputs = s.inputs := by
  rcases s.disturbLine_cases l b with e | e <;> simp [e]

@[simp] theorem disturbLine_drawn (s : State) (l : Nat) (b : Bool) :
    (s.disturbLine l b).drawn = s.drawn := by
  rcases s.disturbLine_cases l b with e | e <;> simp [e]

@[simp] theorem disturbLine_trace (s : State) (l : Nat) (b : Bool) :
    (s.disturbLine l b).trace = s.trace := by
  rcases s.disturbLine_cases l b with e | e <;> simp [e]

@[simp] theorem disturbLine_returns (s : State) (l : Nat) (b : Bool) :
    (s.disturbLine l b).returns = s.returns := by
  rcases s.disturbLine_cases l b with e | e <;> simp [e]

@[simp] theorem disturbLine_requests (s : State) (l : Nat) (b : Bool) :
    (s.disturbLine l b).requests = s.requests := by
  rcases s.disturbLine_cases l b with e | e <;> simp [e]

@[simp] theorem disturbLine_schedule (s : State) (l : Nat) (b : Bool) :
    (s.disturbLine l b).schedule = s.schedule := by
  rcases s.disturbLine_cases l b with e | e <;> simp [e]

@[simp] theorem disturbLine_picked (s : State) (l : Nat) (b : Bool) :
    (s.disturbLine l b).picked = s.picked := by
  rcases s.disturbLine_cases l b with e | e <;> simp [e]

/-! ### The lock and the return -/

@[simp] theorem takeLock_cfg (s : State) :
    (s.takeLock).cfg = s.cfg := by
  unfold takeLock; (repeat' split) <;> rfl

@[simp] theorem takeLock_ctl (s : State) :
    (s.takeLock).ctl = s.ctl := by
  unfold takeLock; (repeat' split) <;> rfl

@[simp] theorem takeLock_alone (s : State) :
    (s.takeLock).alone = s.alone := by
  unfold takeLock; (repeat' split) <;> rfl

@[simp] theorem takeLock_ctlId (s : State) :
    (s.takeLock).ctlId = s.ctlId := by
  unfold takeLock; (repeat' split) <;> rfl

@[simp] theorem takeLock_parked (s : State) :
    (s.takeLock).parked = s.parked := by
  unfold takeLock; (repeat' split) <;> rfl

@[simp] theorem takeLock_lastEnd (s : State) :
    (s.takeLock).lastEnd = s.lastEnd := by
  unfold takeLock; (repeat' split) <;> rfl

@[simp] theorem takeLock_caller (s : State) :
    (s.takeLock).caller = s.caller := by
  unfold takeLock; (repeat' split) <;> rfl

@[simp] theorem takeLock_device (s : State) :
    (s.takeLock).device = s.device := by
  unfold takeLock; (repeat' split) <;> rfl

@[simp] theorem takeLock_now (s : State) :
    (s.takeLock).now = s.now := by
  unfold takeLock; (repeat' split) <;> rfl

@[simp] theorem takeLock_inputs (s : State) :
    (s.takeLock).inputs = s.inputs := by
  unfold takeLock; (repeat' split) <;> rfl

@[simp] theorem takeLock_drawn (s : State) :
    (s.takeLock).drawn = s.drawn := by
  unfold takeLock; (repeat' split) <;> rfl

@[simp] theorem takeLock_trace (s : State) :
    (s.takeLock).trace = s.trace := by
  unfold takeLock; (repeat' split) <;> rfl

@[simp] theorem takeLock_returns (s : State) :
    (s.takeLock).returns = s.returns := by
  unfold takeLock; (repeat' split) <;> rfl

@[simp] theorem takeLock_requests (s : State) :
    (s.takeLock).requests = s.requests := by
  unfold takeLock; (repeat' split) <;> rfl

@[simp] theorem takeLock_schedule (s : State) :
    (s.takeLock).schedule = s.schedule := by
  unfold takeLock; (repeat' split) <;> rfl

@[simp] theorem takeLock_picked (s : State) :
    (s.takeLock).picked = s.picked := by
  unfold takeLock; (repeat' split) <;> rfl

@[simp] theorem releaseLock_cfg (s : State) :
    (s.releaseLock).cfg = s.cfg := by
  unfold releaseLock; (repeat' split) <;> rfl

@[simp] theorem releaseLock_ctl (s : State) :
    (s.releaseLock).ctl = s.ctl := by
  unfold releaseLock; (repeat' split) <;> rfl

@[simp] theorem releaseLock_alone (s : State) :
    (s.releaseLock).alone = s.alone := by
  unfold releaseLock; (repeat' split) <;> rfl

@[simp] theorem releaseLock_ctlId (s : State) :
    (s.releaseLock).ctlId = s.ctlId := by
  unfold releaseLock; (repeat' split) <;> rfl

@[simp] theorem releaseLock_parked (s : State) :
    (s.releaseLock).parked = s.parked := by
  unfold releaseLock; (repeat' split) <;> rfl

@[simp] theorem releaseLock_lastEnd (s : State) :
    (s.releaseLock).lastEnd = s.lastEnd := by
  unfold releaseLock; (repeat' split) <;> rfl

@[simp] theorem releaseLock_caller (s : State) :
    (s.releaseLock).caller = s.caller := by
  unfold releaseLock; (repeat' split) <;> rfl

@[simp] theorem releaseLock_device (s : State) :
    (s.releaseLock).device = s.device := by
  unfold releaseLock; (repeat' split) <;> rfl

@[simp] theorem releaseLock_now (s : State) :
    (s.releaseLock).now = s.now := by
  unfold releaseLock; (repeat' split) <;> rfl

@[simp] theorem releaseLock_inputs (s : State) :
    (s.releaseLock).inputs = s.inputs := by
  unfold releaseLock; (repeat' split) <;> rfl

@[simp] theorem releaseLock_drawn (s : State) :
    (s.releaseLock).drawn = s.drawn := by
  unfold releaseLock; (repeat' split) <;> rfl

@[simp] theorem releaseLock_trace (s : State) :
    (s.releaseLock).trace = s.trace := by
  unfold releaseLock; (repeat' split) <;> rfl

@[simp] theorem releaseLock_returns (s : State) :
    (s.releaseLock).returns = s.returns := by
  unfold releaseLock; (repeat' split) <;> rfl

@[simp] theorem releaseLock_requests (s : State) :
    (s.releaseLock).requests = s.requests := by
  unfold releaseLock; (repeat' split) <;> rfl

@[simp] theorem releaseLock_schedule (s : State) :
    (s.releaseLock).schedule = s.schedule := by
  unfold releaseLock; (repeat' split) <;> rfl

@[simp] theorem releaseLock_picked (s : State) :
    (s.releaseLock).picked = s.picked := by
  unfold releaseLock; (repeat' split) <;> rfl

@[simp] theorem deliver_cfg (s : State) (r : Result) :
    (s.deliver r).cfg = s.cfg := rfl

@[simp] theorem deliver_ctl (s : State) (r : Result) :
    (s.deliver r).ctl = s.ctl := rfl

@[simp] theorem deliver_alone (s : State) (r : Result) :
    (s.deliver r).alone = s.alone := rfl

@[simp] theorem deliver_ctlId (s : State) (r : Result) :
    (s.deliver r).ctlId = s.ctlId := rfl

@[simp] theorem deliver_parked (s : State) (r : Result) :
    (s.deliver r).parked = s.parked := rfl

@[simp] theorem deliver_lastEnd (s : State) (r : Result) :
    (s.deliver r).lastEnd = s.lastEnd := rfl

@[simp] theorem deliver_owner (s : State) (r : Result) :
    (s.deliver r).owner = s.owner := rfl

@[simp] theorem deliver_caller (s : State) (r : Result) :
    (s.deliver r).caller = s.caller := rfl

@[simp] theorem deliver_device (s : State) (r : Result) :
    (s.deliver r).device = s.device := rfl

@[simp] theorem deliver_now (s : State) (r : Result) :
    (s.deliver r).now = s.now := rfl

@[simp] theorem deliver_inputs (s : State) (r : Result) :
    (s.deliver r).inputs = s.inputs := rfl

@[simp] theorem deliver_drawn (s : State) (r : Result) :
    (s.deliver r).drawn = s.drawn := rfl

@[simp] theorem deliver_trace (s : State) (r : Result) :
    (s.deliver r).trace = s.trace := rfl

@[simp] theorem deliver_requests (s : State) (r : Result) :
    (s.deliver r).requests = s.requests := rfl

@[simp] theorem deliver_schedule (s : State) (r : Result) :
    (s.deliver r).schedule = s.schedule := rfl

@[simp] theorem deliver_picked (s : State) (r : Result) :
    (s.deliver r).picked = s.picked := rfl

@[simp] theorem deliver_returns (s : State) (r : Result) :
    (s.deliver r).returns = s.returns ++ [⟨s.caller, r⟩] := rfl

/-! ### swapParts -/

@[simp] theorem swapParts_cfg (s : State) : s.swapParts.cfg = s.cfg := rfl

@[simp] theorem swapParts_ctlId (s : State) : s.swapParts.ctlId = s.ctlId := rfl

@[simp] theorem swapParts_parked (s : State) : s.swapParts.parked = s.parked := rfl

@[simp] theorem swapParts_lastEnd (s : State) : s.swapParts.lastEnd = s.lastEnd := rfl

@[simp] theorem swapParts_owner (s : State) : s.swapParts.owner = s.owner := rfl

@[simp] theorem swapParts_caller (s : State) : s.swapParts.caller = s.caller := rfl

@[simp] theorem swapParts_device (s : State) : s.swapParts.device = s.device := rfl

@[simp] theorem swapParts_now (s : State) : s.swapParts.now = s.now := rfl

@[simp] theorem swapParts_inputs (s : State) : s.swapParts.inputs = s.inputs := rfl

@[simp] theorem swapParts_drawn (s : State) : s.swapParts.drawn = s.drawn := rfl

@[simp] theorem swapParts_trace (s : State) : s.swapParts.trace = s.trace := rfl

@[simp] theorem swapParts_returns (s : State) : s.swapParts.returns = s.returns := rfl

@[simp] theorem swapParts_requests (s : State) : s.swapParts.requests = s.requests := rfl

@[simp] theorem swapParts_schedule (s : State) : s.swapParts.schedule = s.schedule := rfl

@[simp] theorem swapParts_picked (s : State) : s.swapParts.picked = s.picked := rfl

@[simp] theorem swapParts_phase (s : State) : s.swapParts.ctl.phase = s.ctl.phase := rfl

@[simp] theorem swapParts_ctl_spi (s : State) : s.swapParts.ctl.spi = s.alone.spi := rfl

@[simp] theorem swapParts_ctl_gpio (s : State) : s.swapParts.ctl.gpio = s.alone.gpio := rfl

@[simp] theorem swapParts_alone (s : State) : s.swapParts.alone = ⟨s.ctl.spi, s.ctl.gpio⟩ := rfl

/-- Swapped twice, the components are back in place. -/
@[simp] theorem swapParts_swapParts (s : State) : s.swapParts.swapParts = s := rfl

@[simp] theorem view_true (s : State) : s.view true = s.swapParts := rfl

@[simp] theorem view_false (s : State) : s.view false = s := rfl

end Sys2Proof.Machine.State
end

