-- ==== Sys2Proof/Laws/Ops.lean ====
section
/-! SUPPORT. What a primitive can change, what a run of a program can change, and how programs compose: said
once here, cited by every later proof. -/

namespace Sys2Proof.Machine

/-! ### What no primitive changes -/

/-- The parts of the state that no primitive and no run of a program changes. -/
structure SameFrame (s t : State) : Prop where
  cfg : t.cfg = s.cfg
  ctlId : t.ctlId = s.ctlId
  alone : t.alone = s.alone
  parked : t.parked = s.parked
  owner : t.owner = s.owner
  caller : t.caller = s.caller
  returns : t.returns = s.returns
  requests : t.requests = s.requests
  schedule : t.schedule = s.schedule
  picked : t.picked = s.picked

theorem SameFrame.refl (s : State) : SameFrame s s := ⟨rfl, rfl, rfl, rfl, rfl, rfl, rfl, rfl, rfl, rfl⟩

theorem SameFrame.trans {s t u : State} (h : SameFrame s t) (h' : SameFrame t u) : SameFrame s u :=
  ⟨h'.cfg.trans h.cfg, h'.ctlId.trans h.ctlId, h'.alone.trans h.alone, h'.parked.trans h.parked, h'.owner.trans h.owner,
   h'.caller.trans h.caller, h'.returns.trans h.returns, h'.requests.trans h.requests,
   h'.schedule.trans h.schedule, h'.picked.trans h.picked⟩

/-- The state a primitive leaves, replied or stalled. -/
def Performed.state : Performed → State
  | .replied _ s => s
  | .stalled s => s

@[simp] theorem Performed.state_replied (r : Reply) (s : State) : (Performed.replied r s).state = s := rfl

@[simp] theorem Performed.state_stalled (s : State) : (Performed.stalled s).state = s := rfl

/-- What a line or resource primitive can do: it stalls, or it emits its one event and its effects follow. -/
theorem attempt_cases (possible : Bool) (ev : Event) (onOk onFail onStall : State → State)
    (s : State) :
    (s.answer.status = .stalled ∧
      attempt possible ev onOk onFail onStall s
        = .stalled (onStall { s.consume with now := s.now + s.answer.before })) ∨
    ((s.answer.status = .failed ∨ s.answer.status = .ok ∧ possible = false) ∧
      ∃ t, t = onFail (s.consume.emit (s.now + s.answer.before)
          (s.now + s.answer.before + s.answer.took) ev false) ∧
        attempt possible ev onOk onFail onStall s
          = .replied ⟨{ s.answer with status := .failed }, t.ctl⟩ t) ∨
    (s.answer.status = .ok ∧ possible = true ∧
      ∃ t, t = onOk (s.consume.emit (s.now + s.answer.before)
          (s.now + s.answer.before + s.answer.took) ev true) ∧
        attempt possible ev onOk onFail onStall s = .replied ⟨s.answer, t.ctl⟩ t) := by
  cases ha : s.answer.status <;> cases possible <;> simp [attempt, outcome, ha]

/-- What a line write can do (R135, R136, R138): it stalls; or it fails, as the platform answers or because the
sequencer has been closed since the check; or it succeeds, and the line and its field take the level together. A
line that a failed or stalled write leaves at some level is one of an open sequencer. -/
theorem setLine_cases (pin : Pin) (level : Bool) (s : State) :
    (s.answer.status = .stalled ∧
      setLine pin level s = .stalled (State.disturbLine { s.consume with now := s.now + s.answer.before }
        (s.ctl.gpio.line pin) s.answer.level)) ∨
    ((s.answer.status = .failed ∨ s.answer.status = .ok ∧ s.ctl.gpio.isOpen = false) ∧
      ∃ t, t = (s.consume.emit (s.now + s.answer.before) (s.now + s.answer.before + s.answer.took)
          (.lineSet (s.ctl.gpio.line pin) level) false).disturbLine (s.ctl.gpio.line pin) s.answer.level ∧
        setLine pin level s = .replied ⟨{ s.answer with status := .failed }, t.ctl⟩ t) ∨
    (s.answer.status = .ok ∧ s.ctl.gpio.isOpen = true ∧
      ∃ t, t = ((s.consume.emit (s.now + s.answer.before) (s.now + s.answer.before + s.answer.took)
          (.lineSet (s.ctl.gpio.line pin) level) true).moveLine (s.ctl.gpio.line pin) level).write
            (.gpioLevel pin level) ∧
        setLine pin level s = .replied ⟨s.answer, t.ctl⟩ t) := by
  simp only [setLine]
  exact attempt_cases _ _ _ _ _ s

/-- What a line read can do (R137, R139): only time passes, and it replies or stalls. -/
theorem getLine_cases (s : State) :
    getLine s = .stalled { s.consume with now := s.now + s.answer.before + s.answer.took } ∨
    ∃ status, getLine s = .replied ⟨{ s.answer with status := status }, s.ctl⟩
      { s.consume with now := s.now + s.answer.before + s.answer.took } := by
  cases h : outcome s.answer s.ctl.gpio.isOpen <;> simp [getLine, h]

/-- What the exchange of a transfer can do. -/
theorem exchange_cases (tx : Frame) (s : State) :
    (s.answer.status = .stalled ∧
      exchange tx s = .stalled { s.consume.awaitBus with
        now := s.nextStart, device := s.device.forget s.nextStart tx }) ∨
    (s.answer.status = .failed ∧
      exchange tx s = .replied ⟨s.answer, s.ctl⟩
        { s.consume.awaitBus.emit s.nextStart (s.nextStart + s.clocking tx + s.answer.took)
            (.xfer tx s.answer.rx) false with
          lastEnd := some (s.nextStart + s.clocking tx + s.answer.took)
          device := s.device.forget s.nextStart tx }) ∨
    (s.answer.status = .ok ∧ ∃ rx,
      rx = s.device.respond s.cfg.deviceCoherent s.nextStart tx s.answer.rx ∧
      exchange tx s = .replied ⟨{ s.answer with rx := rx }, s.ctl⟩
        { s.consume.awaitBus.emit s.nextStart (s.nextStart + s.clocking tx + s.answer.took)
            (.xfer tx rx) true with
          lastEnd := some (s.nextStart + s.clocking tx + s.answer.took)
          device := s.device.accept s.nextStart tx (rx.length == tx.length) }) := by
  cases ha : s.answer.status <;> simp [exchange, ha, State.nextStart]

/-- No primitive changes the configuration, the lock, the callers or the other instances. -/
theorem perform_sameFrame (p : Prim) (s : State) : SameFrame s (p.perform s).state := by
  have key : ∀ (possible : Bool) (ev : Event) (f g h : State → State),
      (∀ u, SameFrame u (f u)) → (∀ u, SameFrame u (g u)) → (∀ u, SameFrame u (h u)) →
      SameFrame s (attempt possible ev f g h s).state := by
    intro possible ev f g h hf hg hh
    rcases attempt_cases possible ev f g h s with ⟨_, e⟩ | ⟨_, t, rfl, e⟩ | ⟨_, _, t, rfl, e⟩ <;> rw [e]
    · exact (SameFrame.trans (t := _) (by exact ⟨rfl, rfl, rfl, rfl, rfl, rfl, rfl, rfl, rfl, rfl⟩) (hh _))
    · exact (SameFrame.trans (t := _) (by exact ⟨rfl, rfl, rfl, rfl, rfl, rfl, rfl, rfl, rfl, rfl⟩) (hg _))
    · exact (SameFrame.trans (t := _) (by exact ⟨rfl, rfl, rfl, rfl, rfl, rfl, rfl, rfl, rfl, rfl⟩) (hf _))
  have move : ∀ (u : State) (l : Nat) (f : Device → Device) (b : Bool), SameFrame u (u.wire l f b) :=
    fun u l f b =>
      ⟨by simp, by simp, by simp, by simp, by simp, by simp, by simp, by simp, by simp, by simp⟩
  cases p with
  | look => exact .refl s
  | assign w => exact ⟨rfl, rfl, rfl, rfl, rfl, rfl, rfl, rfl, rfl, rfl⟩
  | gap _ => exact ⟨rfl, rfl, rfl, rfl, rfl, rfl, rfl, rfl, rfl, rfl⟩
  | hold _ _ => exact ⟨rfl, rfl, rfl, rfl, rfl, rfl, rfl, rfl, rfl, rfl⟩
  | xfer tx =>
    rcases exchange_cases tx s with ⟨_, e⟩ | ⟨_, e⟩ | ⟨_, rx, _, e⟩ <;>
      simp only [Prim.perform, e, Performed.state] <;> constructor <;> simp
  | lineGet _ =>
    simp only [Prim.perform]
    rcases getLine_cases s with e | ⟨_, e⟩ <;> rw [e] <;> exact ⟨rfl, rfl, rfl, rfl, rfl, rfl, rfl, rfl, rfl, rfl⟩
  | lineSet pin b =>
    have disturbed : ∀ (u : State) (l : Nat) (b : Bool), SameFrame u (u.disturbLine l b) := by
      intro u l b
      rcases u.disturbLine_cases l b with e | e <;> rw [e]
      · exact .refl u
      · exact move u _ _ _
    simp only [Prim.perform, setLine]
    refine key _ _ _ _ _ ?_ ?_ ?_ <;> intro u
    · exact SameFrame.trans (t := u.moveLine (s.ctl.gpio.line pin) b) (move u _ _ _)
        ⟨rfl, rfl, rfl, rfl, rfl, rfl, rfl, rfl, rfl, rfl⟩
    · exact disturbed u _ _
    · exact disturbed u _ _
  | spiOpen =>
    simp only [Prim.perform]
    refine key _ _ _ _ _ ?_ ?_ ?_ <;> intro u <;> exact ⟨rfl, rfl, rfl, rfl, rfl, rfl, rfl, rfl, rfl, rfl⟩
  | spiRelease =>
    simp only [Prim.perform]
    refine key _ _ _ _ _ ?_ ?_ ?_ <;> intro u <;> exact ⟨rfl, rfl, rfl, rfl, rfl, rfl, rfl, rfl, rfl, rfl⟩
  | chipOpen c =>
    simp only [Prim.perform]
    refine key _ _ _ _ _ ?_ ?_ ?_ <;> intro u <;> exact ⟨rfl, rfl, rfl, rfl, rfl, rfl, rfl, rfl, rfl, rfl⟩
  | lineRequest l =>
    simp only [Prim.perform]
    refine key _ _ _ _ _ ?_ ?_ ?_ <;> intro u
    · exact SameFrame.trans (t := (u.setLines (l :: u.ctl.gpio.lines)).emit u.now u.now
        (.lineSet l false) true) ⟨rfl, rfl, rfl, rfl, rfl, rfl, rfl, rfl, rfl, rfl⟩ (move _ l _ _)
    · exact .refl u
    · split_ifs
      · exact .refl u
      · exact move u l _ _
  | lineRelease l =>
    simp only [Prim.perform]
    refine key _ _ _ _ _ ?_ ?_ ?_ <;> intro u
    · exact SameFrame.trans (t := u.setLines (u.ctl.gpio.lines.erase l)) ⟨rfl, rfl, rfl, rfl, rfl, rfl, rfl, rfl, rfl, rfl⟩ (move _ l _ _)
    · exact SameFrame.trans (t := u.setLines (u.ctl.gpio.lines.erase l)) ⟨rfl, rfl, rfl, rfl, rfl, rfl, rfl, rfl, rfl, rfl⟩ (move _ l _ _)
    · exact move u l _ _
  | chipRelease =>
    simp only [Prim.perform]
    refine key _ _ _ _ _ ?_ ?_ ?_ <;> intro u <;> exact ⟨rfl, rfl, rfl, rfl, rfl, rfl, rfl, rfl, rfl, rfl⟩

/-! ### The trace only grows -/

/-- The trace has grown by the current caller's events, whose frames are the given ones. -/
def Grown (s t : State) (fs : List Frame) : Prop :=
  ∃ new, t.trace = s.trace ++ new ∧ (∀ e ∈ new, e.caller = s.caller)
    ∧ new.filterMap (fun e => e.event.frame?) = fs

theorem Grown.refl (s : State) : Grown s s [] := ⟨[], by simp⟩

theorem Grown.trans {s t u : State} {fs gs : List Frame} (h : Grown s t fs) (h' : Grown t u gs)
    (hc : t.caller = s.caller) : Grown s u (fs ++ gs) := by
  obtain ⟨n, h1, h2, h3⟩ := h
  obtain ⟨m, h1', h2', h3'⟩ := h'
  refine ⟨n ++ m, by simp [h1', h1], fun e he => ?_, by simp [h3, h3']⟩
  rcases List.mem_append.1 he with he | he
  · exact h2 e he
  · exact (h2' e he).trans hc

theorem Grown.of_trace {s t u : State} {fs : List Frame} (h : Grown s t fs) (e : u.trace = t.trace) :
    Grown s u fs := by
  obtain ⟨n, h1, h2, h3⟩ := h
  exact ⟨n, e.trans h1, h2, h3⟩

theorem Grown.frames {s t : State} {fs : List Frame} (h : Grown s t fs) :
    t.frames = s.frames ++ fs := by
  obtain ⟨n, h1, _, h3⟩ := h
  simp [State.frames, h1, h3]

/-- An event that is no transfer, at the end of the trace. -/
theorem grown_emit {s t : State} (a b : Nat) {ev : Event} (ok : Bool) (ht : t.trace = s.trace)
    (hc : t.caller = s.caller) (hf : ev.frame? = none) : Grown s (t.emit a b ev ok) [] :=
  ⟨[⟨a, b, t.caller, ev, ok⟩], by simp [ht], by simp [hc], by simp [hf]⟩

theorem grown_awaitBus (s : State) : Grown s s.consume.awaitBus [] := by
  unfold State.awaitBus
  split_ifs
  · exact grown_emit _ _ _ rfl rfl rfl
  · exact ⟨[], by simp⟩

/-- The frames a primitive puts on the trace: its own for a transfer that ends, none else. -/
theorem perform_grown (p : Prim) (s : State) :
    Grown s (p.perform s).state [] ∨
      ∃ tx, p = .xfer tx ∧ Grown s (p.perform s).state [tx] := by
  have key : ∀ (possible : Bool) (ev : Event) (f g h : State → State), ev.frame? = none →
      (∀ u, Grown u (f u) []) → (∀ u, Grown u (g u) []) → (∀ u, Grown u (h u) []) →
      Grown s (attempt possible ev f g h s).state [] := by
    intro possible ev f g h hev hf hg hh
    rcases attempt_cases possible ev f g h s with ⟨_, e⟩ | ⟨_, t, rfl, e⟩ | ⟨_, _, t, rfl, e⟩ <;> rw [e]
    · exact Grown.trans (s := s) (t := { s.consume with now := s.now + s.answer.before })
        (fs := []) ⟨[], by simp⟩ (hh _) rfl
    · exact (grown_emit _ _ _ rfl rfl hev).trans (hg _) rfl
    · exact (grown_emit _ _ _ rfl rfl hev).trans (hf _) rfl
  have move : ∀ (u : State) (l : Nat) (f : Device → Device) (b : Bool), Grown u (u.wire l f b) [] :=
    fun u l f b => (Grown.refl u).of_trace (by simp)
  cases p with
  | look => exact .inl (.refl s)
  | assign w => exact .inl ((Grown.refl s).of_trace rfl)
  | gap _ => exact .inl (grown_emit _ _ _ rfl rfl rfl)
  | hold _ _ => exact .inl (grown_emit _ _ _ rfl rfl rfl)
  | xfer tx =>
    have one : ∀ (a b : Nat) (rx : Frame) (ok : Bool),
        Grown s (s.consume.awaitBus.emit a b (.xfer tx rx) ok) [tx] := fun a b rx ok =>
      (grown_awaitBus s).trans (fs := []) (gs := [tx])
        ⟨[⟨a, b, _, .xfer tx rx, ok⟩], rfl, by simp, rfl⟩ (by simp)
    rcases exchange_cases tx s with ⟨_, e⟩ | ⟨_, e⟩ | ⟨_, rx, _, e⟩
    · refine .inl ?_
      simp only [Prim.perform, e, Performed.state]
      exact (grown_awaitBus s).of_trace rfl
    · refine .inr ⟨tx, rfl, ?_⟩
      simp only [Prim.perform, e, Performed.state]
      exact (one _ _ _ false).of_trace rfl
    · refine .inr ⟨tx, rfl, ?_⟩
      simp only [Prim.perform, e, Performed.state]
      exact (one _ _ _ true).of_trace rfl
  | lineGet _ =>
    refine .inl ?_
    simp only [Prim.perform]
    rcases getLine_cases s with e | ⟨_, e⟩ <;> rw [e] <;> exact (Grown.refl s).of_trace rfl
  | lineSet pin b =>
    have disturbed : ∀ (u : State) (l : Nat) (b : Bool), Grown u (u.disturbLine l b) [] := fun u l b =>
      (Grown.refl u).of_trace (by simp)
    simp only [Prim.perform, setLine]
    refine .inl (key _ _ _ _ _ rfl ?_ ?_ ?_) <;> intro u
    · exact (Grown.refl u).of_trace (by simp)
    · exact disturbed u _ _
    · exact disturbed u _ _
  | spiOpen =>
    simp only [Prim.perform]
    refine .inl (key _ _ _ _ _ rfl ?_ ?_ ?_) <;> intro u <;> exact (Grown.refl u).of_trace rfl
  | spiRelease =>
    simp only [Prim.perform]
    refine .inl (key _ _ _ _ _ rfl ?_ ?_ ?_) <;> intro u <;> exact (Grown.refl u).of_trace rfl
  | chipOpen c =>
    simp only [Prim.perform]
    refine .inl (key _ _ _ _ _ rfl ?_ ?_ ?_) <;> intro u <;> exact (Grown.refl u).of_trace rfl
  | lineRequest l =>
    simp only [Prim.perform]
    refine .inl (key _ _ _ _ _ rfl ?_ ?_ ?_) <;> intro u
    · exact (grown_emit (s := u) (t := u.setLines (l :: u.ctl.gpio.lines)) u.now u.now
        (ev := .lineSet l false) true rfl rfl rfl).of_trace (State.wire_trace _ _ _ _)
    · exact .refl u
    · split_ifs
      · exact .refl u
      · exact (Grown.refl u).of_trace (State.wire_trace _ _ _ _)
  | lineRelease l =>
    simp only [Prim.perform]
    refine .inl (key _ _ _ _ _ rfl ?_ ?_ ?_) <;> intro u
    · exact (Grown.refl u).of_trace (State.wire_trace _ _ _ _)
    · exact (Grown.refl u).of_trace (State.wire_trace _ _ _ _)
    · exact (Grown.refl u).of_trace (State.wire_trace _ _ _ _)
  | chipRelease =>
    simp only [Prim.perform]
    refine .inl (key _ _ _ _ _ rfl ?_ ?_ ?_) <;> intro u <;> exact (Grown.refl u).of_trace rfl

/-! ### Runs of programs -/

/-- The state a run leaves, where it leaves one. -/
def Ran.state? : Ran → Option State
  | .done _ s => some s
  | .stalled s => some s
  | .refused _ => none

namespace Prog

/-- Every primitive a program can come to, whatever the replies. -/
def Acts (C : Prim → Prop) : Prog → Prop
  | .done _ => True
  | .refuse _ => True
  | .act p k => C p ∧ ∀ r, (k r).Acts C
  | .whole q k => q.Acts C ∧ ∀ r, (k r).Acts C

/-- Every result a program can end with, whatever the replies: in `D`, while its uninterrupted parts end in `P`. -/
def Ends (P : Result → Prop) : (D : Result → Prop) → Prog → Prop
  | D, .done r => D r
  | _, .refuse _ => True
  | D, .act _ k => ∀ r, Ends P D (k r)
  | D, .whole q k => Ends P P q ∧ ∀ r, P r → Ends P D (k r)

theorem Acts.mono {C C' : Prim → Prop} (h : ∀ p, C p → C' p) {q : Prog} (hq : q.Acts C) : q.Acts C' := by
  induction q with
  | done => trivial
  | refuse => trivial
  | act p k ih => exact ⟨h p hq.1, fun r => ih r (hq.2 r)⟩
  | whole q k ihq ih => exact ⟨ihq hq.1, fun r => ih r (hq.2 r)⟩

theorem Acts.bind {C : Prim → Prop} {q : Prog} {f : Result → Prog} (hq : q.Acts C)
    (hf : ∀ r, (f r).Acts C) : (q.bind f).Acts C := by
  induction q with
  | done r => exact hf r
  | refuse => trivial
  | act p k ih => exact ⟨hq.1, fun r => ih r (hq.2 r)⟩
  | whole q k _ ih => exact ⟨hq.1, fun r => ih r (hq.2 r)⟩

theorem Ends.bind {P D E : Result → Prop} {q : Prog} {f : Result → Prog} (hq : Ends P D q)
    (hf : ∀ r, D r → Ends P E (f r)) : Ends P E (q.bind f) := by
  induction q with
  | done r => exact hf r hq
  | refuse => trivial
  | act p k ih => exact fun r => ih r (hq r)
  | whole q k _ ih => exact ⟨hq.1, fun r hr => ih r (hq.2 r hr)⟩

theorem Acts.resume {C : Prim → Prop} {q : Prog} (hq : q.Acts C) (ts : List Turn) :
    (q.resume ts).Acts C := by
  induction q generalizing ts with
  | done => cases ts <;> trivial
  | refuse => cases ts <;> trivial
  | act p k ih =>
    rcases ts with _ | ⟨_ | _, ts⟩
    · exact hq
    · exact ih _ (hq.2 _) ts
    · exact hq
  | whole q k _ ih =>
    rcases ts with _ | ⟨_ | _, ts⟩
    · exact hq
    · exact hq
    · exact ih _ (hq.2 _) ts

theorem Ends.resume {P D : Result → Prop} {q : Prog} (hq : Ends P D q) {ts : List Turn}
    (ht : ∀ r, .result r ∈ ts → P r) : Ends P D (q.resume ts) := by
  induction q generalizing ts with
  | done => cases ts <;> exact hq
  | refuse => cases ts <;> trivial
  | act p k ih =>
    rcases ts with _ | ⟨_ | _, ts⟩
    · exact hq
    · exact ih _ (hq _) fun r hr => ht r (by simp [hr])
    · exact hq
  | whole q k _ ih =>
    rcases ts with _ | ⟨_ | r, ts⟩
    · exact hq
    · exact hq
    · exact ih _ (hq.2 r (ht r (by simp))) fun r' hr => ht r' (by simp [hr])

/-- A property that every primitive of a program keeps holds of the state its run leaves. -/
theorem run_keeps {P : State → Prop} {C : Prim → Prop}
    (hP : ∀ p s, C p → P s → P (p.perform s).state) {q : Prog} (hq : q.Acts C) {s t : State}
    (hs : P s) (ht : (q.run s).state? = some t) : P t := by
  induction q generalizing s t with
  | done r => exact (Option.some.inj ht) ▸ hs
  | refuse r => cases ht
  | act p k ih =>
    have hp := hP p s hq.1 hs
    simp only [run] at ht
    cases h : p.perform s with
    | replied r s' =>
      rw [h] at ht hp
      exact ih r (hq.2 r) hp ht
    | stalled s' =>
      rw [h] at ht hp
      exact (Option.some.inj ht) ▸ hp
  | whole q k ihq ih =>
    simp only [run] at ht
    cases h : q.run s with
    | done r s' =>
      rw [h] at ht
      exact ih r (hq.2 r) (ihq hq.1 hs (by rw [h]; rfl)) ht
    | stalled s' =>
      rw [h] at ht
      exact (Option.some.inj ht) ▸ ihq hq.1 hs (by rw [h]; rfl)
    | refused e => rw [h] at ht; cases ht

/-- The result of a run is one the program can end with. -/
theorem run_ends {P D : Result → Prop} {q : Prog} (hq : Ends P D q) {s t : State} {r : Result}
    (h : q.run s = .done r t) : D r := by
  induction q generalizing s t r D with
  | done r' => cases h; exact hq
  | refuse => cases h
  | act p k ih =>
    simp only [run] at h
    cases hp : p.perform s with
    | replied r' s' => rw [hp] at h; exact ih r' (hq r') h
    | stalled s' => rw [hp] at h; cases h
  | whole q k ihq ih =>
    simp only [run] at h
    cases hp : q.run s with
    | done r' s' => rw [hp] at h; exact ih r' (hq.2 r' (ihq hq.1 hp)) h
    | stalled s' => rw [hp] at h; cases h
    | refused e => rw [hp] at h; cases h

/-- Every program does nothing else than its primitives do. -/
theorem acts_any (q : Prog) : q.Acts fun _ => True := by
  induction q with
  | done => trivial
  | refuse => trivial
  | act p k ih => exact ⟨trivial, ih⟩
  | whole q k ihq ih => exact ⟨ihq, ih⟩

/-- No run changes the configuration, the lock, the callers or the other instances. -/
theorem run_sameFrame {q : Prog} {s t : State} (ht : (q.run s).state? = some t) : SameFrame s t :=
  run_keeps (P := fun u => SameFrame s u) (fun p _ _ h => h.trans (perform_sameFrame p _))
    q.acts_any (.refl s) ht

/-- A run of a program and what follows is a run of the program, then of what follows on its result. -/
theorem run_bind (q : Prog) (f : Result → Prog) (s : State) :
    (q.bind f).run s = match q.run s with
      | .done r s' => (f r).run s'
      | .stalled s' => .stalled s'
      | .refused r => .refused r := by
  induction q generalizing s with
  | done => rfl
  | refuse => rfl
  | act p k ih =>
    simp only [bind, run]
    cases p.perform s with
    | replied r s' => exact ih r s'
    | stalled s' => rfl
  | whole q k _ ih =>
    simp only [bind, run]
    cases q.run s with
    | done r s' => exact ih r s'
    | stalled s' => rfl
    | refused e => rfl

/-- Uninterrupted or not, the run of a program is the same. -/
@[simp] theorem run_uninterrupted (q : Prog) (s : State) : (uninterrupted q).run s = q.run s := by
  simp only [uninterrupted, run]
  cases q.run s <;> rfl

end Prog

/-! ### Results of a controller operation -/

@[simp] theorem Result.inController_ok (v : Value) : (Result.ok v).inController = .ok v := rfl

/-- Any other error is the operation's own. -/
@[simp] theorem Result.inController_err {e : Error} (h : e.kind ≠ .invalidState) :
    (Result.err e).inController = .err e := if_neg h

/-- A controller operation never gives `InvalidState` (R220). -/
theorem Result.inController_kind {r : Result} {e : Error} (h : r.inController = .err e) :
    e.kind ≠ .invalidState := by
  cases r with
  | ok v => cases h
  | err e' =>
    simp only [Result.inController] at h
    split_ifs at h with hk <;> cases h
    · decide
    · exact hk

/-- The end of a run, its result as a controller operation gives it. -/
def Ran.inController : Ran → Ran
  | .done r s => .done r.inController s
  | .stalled s => .stalled s
  | .refused r => .refused r

@[simp] theorem Ran.inController_done (r : Result) (s : State) :
    (Ran.done r s).inController = .done r.inController s := rfl

@[simp] theorem Ran.inController_stalled (s : State) : (Ran.stalled s).inController = .stalled s := rfl

@[simp] theorem Ran.inController_refused (r : Refusal) : (Ran.refused r).inController = .refused r := rfl

namespace Prog

@[simp] theorem run_ret (v : Value) (s : State) : (ret v).run s = .done (.ok v) s := rfl

@[simp] theorem run_raise (k : ErrorKind) (i : ErrorInfo) (s : State) :
    (raise k i).run s = .done (.err ⟨k, i, []⟩) s := rfl

@[simp] theorem run_raiseAll (l : List ErrorKind) (s : State) :
    (raiseAll l).run s = .done (.err ⟨.compositeCloseError, .closeErrors, l⟩) s := rfl

@[simp] theorem run_look (k : Controller → Prog) (s : State) : (look k).run s = (k s.ctl).run s := rfl

@[simp] theorem run_assign (w : Write) (q : Prog) (s : State) :
    (assign w q).run s = q.run { s with ctl := w.apply s.ctl } := rfl

end Prog

/-! ### Whole calls -/

/-- Every operation is one whole call of its program, on the controller's components or on those used alone
(R66, R67, R212). -/
theorem exec_eq (i : Instr) (s : State) :
    exec i s = if i.isController then runCall (programOf s.cfg i) s
      else runAlone (programOf s.cfg i) s := by
  cases i <;> rfl

/-- A controller operation is one whole call of its program. -/
theorem exec_eq_runCall {i : Instr} (h : i.isController = true) (s : State) :
    exec i s = runCall (programOf s.cfg i) s := by simp [exec_eq, h]

/-- An operation used alone goes on where its call on the swapped components does. -/
theorem runAlone_next {q : Prog} {s t : State} :
    runAlone q s = .next t ↔ runCall q s.swapParts = .next t.swapParts := by
  unfold runAlone
  cases h : runCall q s.swapParts with
  | next u =>
    constructor
    · intro e; injection e with e; rw [← e]; rfl
    · intro e; injection e with e; rw [e]; rfl
  | fault e => simp
  | refused e => simp

/-- What a whole call can do (R80, R224, R226). -/
theorem runCall_cases (q : Prog) (s : State) :
    (s.cfg.serialized = true ∧ s.owner.isSome = true ∧ runCall q s = .fault .waitsForLock) ∨
    (s.lockFree = true ∧
      ((∃ r t, q.run s.takeLock = .done r t ∧ runCall q s = .next (t.releaseLock.deliver r)) ∨
        (∃ t, q.run s.takeLock = .stalled t ∧ runCall q s = .next t) ∨
        ∃ r, q.run s.takeLock = .refused r ∧ runCall q s = .refused r)) := by
  by_cases h : (s.cfg.serialized && s.owner.isSome) = true
  · refine .inl ?_
    simp only [Bool.and_eq_true] at h
    exact ⟨h.1, h.2, by simp [runCall, h.1, h.2]⟩
  · refine .inr ⟨?_, ?_⟩
    · unfold State.lockFree
      cases hs : s.cfg.serialized <;> cases ho : s.owner <;> simp_all
    · cases hr : q.run s.takeLock with
      | done r t => exact .inl ⟨r, t, rfl, by simp [runCall, h, hr]⟩
      | stalled t => exact .inr (.inl ⟨t, rfl, by simp [runCall, h, hr]⟩)
      | refused r => exact .inr (.inr ⟨r, rfl, by simp [runCall, h, hr]⟩)

/-- Taking a free lock and releasing it again gives the state back. -/
theorem releaseLock_takeLock {s : State} (h : s.lockFree = true) : s.takeLock.releaseLock = s := by
  unfold State.lockFree at h
  cases hs : s.cfg.serialized
  · simp [State.takeLock, State.releaseLock, hs]
  · have ho : s.owner = none := by simpa [hs] using h
    simp only [State.releaseLock, if_true, State.takeLock, hs]
    rw [← ho]

/-- A whole call of a program whose first primitives only look and which then ends. -/
theorem runCall_done {q : Prog} {s : State} {r : Result} (h : s.lockFree = true)
    (hq : q.run s.takeLock = .done r s.takeLock) : runCall q s = .next (s.deliver r) := by
  rcases runCall_cases q s with ⟨h1, h2, _⟩ | ⟨_, ⟨r', t, e, e'⟩ | ⟨t, e, _⟩ | ⟨r', e, _⟩⟩
  · simp only [State.lockFree, h1, Bool.not_true, Bool.false_or] at h
    cases ho : s.owner <;> simp_all
  · rw [hq] at e
    injection e with e1 e2
    subst e1; subst e2
    rw [e', releaseLock_takeLock h]
  · rw [hq] at e; cases e
  · rw [hq] at e; cases e

end Sys2Proof.Machine
end

