-- ==== Sys2Proof/Laws/Transfer.lean ====
section
/-! SUPPORT. A transfer that goes through, named as one update of the state: what it leaves alone, what it puts
there, and the runs of the register steps over it. -/

namespace Sys2Proof.Machine

namespace State

/-! ### The answers to come -/

@[simp] theorem answerAt_zero (s : State) : s.answerAt 0 = s.answer := by
  simp [answerAt, answer, List.head?_eq_getElem?]

@[simp] theorem answerAt_consume (s : State) (k : Nat) : s.consume.answerAt k = s.answerAt (k + 1) := by
  simp [answerAt, consume, Nat.add_comm 1 k, Nat.add_assoc]

theorem answerAt_congr {s t : State} (hi : t.inputs = s.inputs) (hd : t.drawn = s.drawn) (k : Nat) :
    t.answerAt k = s.answerAt k := by simp [answerAt, hi, hd]

theorem answer_congr {s t : State} (hi : t.inputs = s.inputs) (hd : t.drawn = s.drawn) :
    t.answer = s.answer := by simp [answer, hi, hd]

@[simp] theorem consume_inputs (s : State) : s.consume.inputs = s.inputs.tail := rfl

@[simp] theorem consume_drawn (s : State) : s.consume.drawn = s.drawn + 1 := rfl

/-! ### What is read off the trace -/

theorem frames_congr {s t : State} (h : t.trace = s.trace) : t.frames = s.frames := by
  simp [frames, h]

theorem sideEvents_congr {s t : State} (h : t.trace = s.trace) : t.sideEvents = s.sideEvents := by
  simp [sideEvents, h]

theorem xfers_congr {s t : State} (h : t.trace = s.trace) : t.xfers = s.xfers := by
  simp [xfers, h]

@[simp] theorem frames_emit (s : State) (a b : Nat) (ev : Event) (ok : Bool) :
    (s.emit a b ev ok).frames = s.frames ++ ev.frame?.toList := by
  cases h : ev.frame? <;> simp [frames, emit, h]

@[simp] theorem sideEvents_emit (s : State) (a b : Nat) (ev : Event) (ok : Bool) :
    (s.emit a b ev ok).sideEvents = s.sideEvents ++ if ev.isSide then [(ev, ok)] else [] := by
  cases h : ev.isSide <;> simp [sideEvents, emit, h]

@[simp] theorem frames_consume (s : State) : s.consume.frames = s.frames := rfl

@[simp] theorem sideEvents_consume (s : State) : s.consume.sideEvents = s.sideEvents := rfl

@[simp] theorem frames_awaitBus (s : State) : s.awaitBus.frames = s.frames := by
  unfold awaitBus; split_ifs <;> simp [Event.frame?]

@[simp] theorem sideEvents_awaitBus (s : State) : s.awaitBus.sideEvents = s.sideEvents := by
  unfold awaitBus; split_ifs <;> simp [Event.isSide]

/-- The wait for the bus ends when the bus is ready, and at once if it is. -/
@[simp] theorem awaitBus_now (s : State) : s.awaitBus.now = max s.now s.busReady := by
  unfold awaitBus; split_ifs <;> simp <;> omega

@[simp] theorem busReady_consume (s : State) : s.consume.busReady = s.busReady := rfl

/-- When the next transfer starts (R113). -/
theorem nextStart_eq (s : State) : s.nextStart = max s.now s.busReady + s.answer.before := by
  simp [nextStart]

theorem le_nextStart (s : State) : s.now ≤ s.nextStart ∧ s.busReady ≤ s.nextStart := by
  rw [nextStart_eq]; omega

/-! ### A transfer that goes through -/

/-- The response of the next transfer, if it is `tx`. -/
def response (s : State) (tx : Frame) : Frame :=
  s.device.respond s.cfg.deviceCoherent s.nextStart tx s.answer.rx

/-- When the next transfer ends, if it is `tx`. -/
def nextEnd (s : State) (tx : Frame) : Nat := s.nextStart + s.clocking tx + s.answer.took

/-- The state after a transfer that went through, with its gap. -/
def transferred (s : State) (tx : Frame) : State :=
  { s.consume.awaitBus.emit s.nextStart (s.nextEnd tx) (.xfer tx (s.response tx)) true with
    lastEnd := some (s.nextEnd tx)
    device := s.device.accept s.nextStart tx true }.emit (s.nextEnd tx)
      (s.nextEnd tx + gapNanos + s.answer.after) (.gap gapNanos) true

section
variable (s : State) (tx : Frame)

@[simp] theorem transferred_cfg : (s.transferred tx).cfg = s.cfg := by simp [transferred]
@[simp] theorem transferred_ctl : (s.transferred tx).ctl = s.ctl := by simp [transferred]
@[simp] theorem transferred_ctlId : (s.transferred tx).ctlId = s.ctlId := by simp [transferred]
@[simp] theorem transferred_alone : (s.transferred tx).alone = s.alone := by simp [transferred]
@[simp] theorem transferred_parked : (s.transferred tx).parked = s.parked := by simp [transferred]
@[simp] theorem transferred_owner : (s.transferred tx).owner = s.owner := by simp [transferred]
@[simp] theorem transferred_caller : (s.transferred tx).caller = s.caller := by simp [transferred]
@[simp] theorem transferred_returns : (s.transferred tx).returns = s.returns := by simp [transferred]
@[simp] theorem transferred_requests : (s.transferred tx).requests = s.requests := by simp [transferred]
@[simp] theorem transferred_schedule : (s.transferred tx).schedule = s.schedule := by simp [transferred]
@[simp] theorem transferred_picked : (s.transferred tx).picked = s.picked := by simp [transferred]

@[simp] theorem transferred_lastEnd : (s.transferred tx).lastEnd = some (s.nextEnd tx) := by
  simp [transferred]

@[simp] theorem transferred_now :
    (s.transferred tx).now = s.nextEnd tx + gapNanos + s.answer.after := by simp [transferred]

@[simp] theorem transferred_device :
    (s.transferred tx).device = s.device.accept s.nextStart tx true := by simp [transferred]

@[simp] theorem transferred_answerAt (k : Nat) : (s.transferred tx).answerAt k = s.answerAt (k + 1) := by
  rw [← answerAt_consume]
  exact answerAt_congr (by simp [transferred]) (by simp [transferred]) k

@[simp] theorem transferred_answer : (s.transferred tx).answer = s.answerAt 1 := by
  rw [← answerAt_zero, transferred_answerAt]

@[simp] theorem transferred_frames : (s.transferred tx).frames = s.frames ++ [tx] := by
  have : ∀ (u : State) (l : Option Nat) (d : Device),
      ({ u with lastEnd := l, device := d } : State).frames = u.frames := fun _ _ _ => rfl
  rw [transferred, frames_emit, this, frames_emit]
  simp [Event.frame?]

@[simp] theorem transferred_sideEvents : (s.transferred tx).sideEvents = s.sideEvents := by
  have : ∀ (u : State) (l : Option Nat) (d : Device),
      ({ u with lastEnd := l, device := d } : State).sideEvents = u.sideEvents := fun _ _ _ => rfl
  rw [transferred, sideEvents_emit, this, sideEvents_emit]
  simp [Event.isSide]

/-- The next transfer starts no earlier than 10 µs after this one's end. -/
theorem transferred_nextStart : s.nextStart ≤ (s.transferred tx).nextStart := by
  have h := (s.transferred tx).le_nextStart.1
  simp only [transferred_now, nextEnd] at h
  omega

/-- A later transfer on unmoved lines is no hazard where this one was none. -/
theorem transferred_hazard (h : s.device.hazard s.nextStart = false) :
    (s.transferred tx).device.hazard (s.transferred tx).nextStart = false := by
  have hle := s.transferred_nextStart tx
  revert h
  simp only [Device.hazard, transferred_device, Device.accept_held, Device.accept_resetPin,
    Device.accept_fell,
    Bool.or_eq_false_iff]
  rintro ⟨h1, h2⟩
  refine ⟨h1, ?_⟩
  cases hf : s.device.fell with
  | none => rfl
  | some f =>
    simp only [hf, decide_eq_false_iff_not] at h2 ⊢
    omega

@[simp] theorem length_response : (s.response tx).length = s.answer.rx.length := by simp [response]

end

/-! ### The lock does not matter to a transfer -/

@[simp] theorem answerAt_takeLock (s : State) (k : Nat) : s.takeLock.answerAt k = s.answerAt k :=
  answerAt_congr (by simp) (by simp) k

@[simp] theorem answer_takeLock (s : State) : s.takeLock.answer = s.answer :=
  answer_congr (by simp) (by simp)

theorem nextStart_congr {s t : State} (hi : t.inputs = s.inputs) (hd : t.drawn = s.drawn)
    (hn : t.now = s.now) (hl : t.lastEnd = s.lastEnd) : t.nextStart = s.nextStart := by
  have hb : t.busReady = s.busReady := by simp [busReady, hl]
  simp [nextStart_eq, answer_congr hi hd, hn, hb]

@[simp] theorem nextStart_takeLock (s : State) : s.takeLock.nextStart = s.nextStart :=
  nextStart_congr (by simp) (by simp) (by simp) (by simp)

@[simp] theorem frames_takeLock (s : State) : s.takeLock.frames = s.frames := frames_congr (by simp)

@[simp] theorem sideEvents_takeLock (s : State) : s.takeLock.sideEvents = s.sideEvents :=
  sideEvents_congr (by simp)

@[simp] theorem frames_releaseLock (s : State) : s.releaseLock.frames = s.frames := frames_congr (by simp)

@[simp] theorem sideEvents_releaseLock (s : State) : s.releaseLock.sideEvents = s.sideEvents :=
  sideEvents_congr (by simp)

@[simp] theorem frames_deliver (s : State) (r : Result) : (s.deliver r).frames = s.frames := rfl

@[simp] theorem sideEvents_deliver (s : State) (r : Result) : (s.deliver r).sideEvents = s.sideEvents := rfl

end State

namespace Prog

/-! ### The register steps, run -/

/-- A transfer whose answer is a success of the right length goes through. -/
theorem run_spiTransfer {s : State} {tx : Frame} (next : Frame → Prog) (h : s.answer.status = .ok)
    (hl : s.answer.rx.length = tx.length) :
    (spiTransfer tx next).run s = (next (s.response tx)).run (s.transferred tx) := by
  have hr : (s.device.respond s.cfg.deviceCoherent s.nextStart tx s.answer.rx).length = tx.length := by
    simp [hl]
  rcases exchange_cases tx s with ⟨e, _⟩ | ⟨e, _⟩ | ⟨_, rx, hrx, e⟩
  · simp [h] at e
  · simp [h] at e
  · subst hrx
    simp only [spiTransfer, run, Prim.perform, e, Reply.isOk, h, hr]
    simp only [beq_self_eq_true, Bool.not_true, Bool.false_eq_true, if_false, ne_eq, not_true_eq_false,
      run, Prim.perform]
    rfl

/-- A transfer the platform reports failed ends its operation. -/
theorem run_spiTransfer_failed {s : State} {tx : Frame} (next : Frame → Prog)
    (h : s.answer.status = .failed) :
    (spiTransfer tx next).run s = .done (.err ⟨.transportFailure, .busError, []⟩)
      { s.consume.awaitBus.emit s.nextStart (s.nextEnd tx) (.xfer tx s.answer.rx) false with
        lastEnd := some (s.nextEnd tx)
        device := s.device.forget s.nextStart tx } := by
  rcases exchange_cases tx s with ⟨e, _⟩ | ⟨_, e⟩ | ⟨e, _⟩
  · simp [h] at e
  · simp only [spiTransfer, run, Prim.perform, e, Reply.isOk, h]
    rfl
  · simp [h] at e

/-- A response of another length than the request's ends the operation, after the transfer. -/
theorem run_spiTransfer_mismatch {s : State} {tx : Frame} (next : Frame → Prog)
    (h : s.answer.status = .ok) (hl : s.answer.rx.length ≠ tx.length) :
    (spiTransfer tx next).run s = .done (.err ⟨.invalidArgument, .mismatchedLengths, []⟩)
      { s.consume.awaitBus.emit s.nextStart (s.nextEnd tx) (.xfer tx (s.response tx)) true with
        lastEnd := some (s.nextEnd tx)
        device := s.device.forget s.nextStart tx } := by
  have hr : (s.device.respond s.cfg.deviceCoherent s.nextStart tx s.answer.rx).length ≠ tx.length := by
    simpa using hl
  rcases exchange_cases tx s with ⟨e, _⟩ | ⟨e, _⟩ | ⟨_, rx, hrx, e⟩
  · simp [h] at e
  · simp [h] at e
  · subst hrx
    have hd : s.device.accept s.nextStart tx
        ((s.device.respond s.cfg.deviceCoherent s.nextStart tx s.answer.rx).length == tx.length)
        = s.device.forget s.nextStart tx := by
      simp [Device.accept, beq_eq_false_iff_ne.2 hl]
    simp only [spiTransfer, run, Prim.perform, e, Reply.isOk, h, hd]
    simp only [beq_self_eq_true, Bool.not_true, Bool.false_eq_true, if_false, ne_eq, hr, not_false_eq_true,
      if_true, run_raise]
    rfl

/-- A transfer that stalls never ends. -/
theorem run_spiTransfer_stalled {s : State} {tx : Frame} (next : Frame → Prog)
    (h : s.answer.status = .stalled) :
    (spiTransfer tx next).run s
      = .stalled { s.consume.awaitBus with now := s.nextStart, device := s.device.forget s.nextStart tx } := by
  rcases exchange_cases tx s with ⟨_, e⟩ | ⟨e, _⟩ | ⟨e, _⟩
  · simp only [spiTransfer, run, Prim.perform, e]
  · simp [h] at e
  · simp [h] at e

@[simp] theorem run_requireReady {s : State} (q : Prog) (h : s.ctl.phase = .ready) :
    (requireReady q).run s = (q.run s).inController := by
  simp only [requireReady, run_look, h, if_true, run_bind]
  cases q.run s <;> rfl

@[simp] theorem run_requireReady_not {s : State} (q : Prog) (h : s.ctl.phase ≠ .ready) :
    (requireReady q).run s = .done (.err ⟨.notInitialized, .notReady, []⟩) s := by simp [requireReady, h]

@[simp] theorem run_requireSpi {s : State} (q : Prog) (h : s.ctl.spi.isOpen = true) :
    (requireSpi q).run s = q.run s := by simp [requireSpi, h]

@[simp] theorem run_requireSpi_not {s : State} (q : Prog) (h : s.ctl.spi.isOpen = false) :
    (requireSpi q).run s = .done (.err ⟨.invalidState, .transportNotOpen, []⟩) s := by
  simp [requireSpi, h]

@[simp] theorem run_requireGpio {s : State} (q : Prog) (h : s.ctl.gpio.isOpen = true) :
    (requireGpio q).run s = q.run s := by simp [requireGpio, h]

@[simp] theorem run_requireGpio_not {s : State} (q : Prog) (h : s.ctl.gpio.isOpen = false) :
    (requireGpio q).run s = .done (.err ⟨.invalidState, .gpioNotOpen, []⟩) s := by
  simp [requireGpio, h]

@[simp] theorem run_requireRange {s : State} {a n : Nat} (q : Prog) (h : inRange a n = true) :
    (requireRange a n q).run s = q.run s := by simp [requireRange, h]

@[simp] theorem run_requireRange_not {s : State} {a n : Nat} (q : Prog) (h : inRange a n = false) :
    (requireRange a n q).run s = .done (.err ⟨.invalidArgument, .addressOutsideRange, []⟩) s := by
  simp [requireRange, h]

@[simp] theorem run_requireFxosc {s : State} {cfg : Config} (q : Prog) (h : legalFxosc cfg.fxosc = true) :
    (requireFxosc cfg q).run s = q.run s := by simp [requireFxosc, h]

theorem inRange_one {a : Nat} : inRange a 1 = true ↔ a ≤ 0x13 := by
  rw [inRange, Bool.and_eq_true, decide_eq_true_iff, decide_eq_true_iff, lastAddr]; omega

/-- A register write that goes through. -/
theorem run_writeReg {s : State} {a : Nat} {v : Byte} (next : Prog) (ho : s.ctl.spi.isOpen = true)
    (ha : a ≤ 0x13) (h : s.answer.status = .ok) (hl : s.answer.rx.length = 2) :
    (writeReg a v next).run s = next.run (s.transferred (writeFrame a v)) := by
  rw [writeReg, run_requireSpi _ ho, run_requireRange _ (inRange_one.2 ha),
    run_spiTransfer _ h (by simpa [writeFrame] using hl)]

/-- A register read that goes through gives the second response byte. -/
theorem run_readReg {s : State} {a : Nat} (next : Byte → Prog) (ho : s.ctl.spi.isOpen = true)
    (ha : a ≤ 0x13) (h : s.answer.status = .ok) (hl : s.answer.rx.length = 2) :
    (readReg a next).run s
      = (next ((s.response (readFrame a)).getD 1 0)).run (s.transferred (readFrame a)) := by
  have hlen : (s.response (readFrame a)).length = 2 := by simpa using hl
  rw [readReg, run_requireSpi _ ho, run_requireRange _ (inRange_one.2 ha),
    run_spiTransfer _ h (by simpa [readFrame] using hl)]
  match hr : s.response (readFrame a), hlen with
  | [x, y], _ => rfl

end Prog

end Sys2Proof.Machine
end

