-- ==== Sys2Proof/Certificates/Slice0/Obligations.lean ====
section
/-! DEFINITION. The statements for the provers. Frame bytes are written out from 30_encoding.md, not through the
model's encoder. An error's `info` follows the pseudocode's words (R221; assumption 23). -/

section

open Sys2Proof Sys2Proof.Machine

/-! ### Encodings -/

/-- R91 to R94 and R111: the four frame layouts; R96: a burst of one is a single access; R90: the address byte
reads back for every address in range. -/
def Obligations.FrameLayouts : Prop :=
  ∀ (a : Nat) (v : Byte) (vs : List Byte) (n : Nat),
    writeFrame a v = [BitVec.ofNat 8 a ||| 0x80, v] ∧
    readFrame a = [BitVec.ofNat 8 a &&& 0x7F, 0x00] ∧
    burstWriteFrame a vs = (BitVec.ofNat 8 a ||| 0x80) :: vs ∧
    burstReadFrame a n = (BitVec.ofNat 8 a &&& 0x7F) :: List.replicate n 0x00 ∧
    burstWriteFrame a [v] = writeFrame a v ∧ burstReadFrame a 1 = readFrame a ∧
    (a ≤ 0x13 →
      isWrite (addressByte true a) = true ∧ frameAddr (addressByte true a) = a ∧
      isWrite (addressByte false a) = false ∧ frameAddr (addressByte false a) = a)

/-- R73, with R10's order of the bits in a byte: byte 0 goes first and each byte most significant bit first. So
the first bit on the wire is the W flag (R90). -/
def Obligations.WireBitOrder : Prop :=
  (∀ f : Frame, (wireBits f).length = 8 * f.length) ∧
  (∀ (f : Frame) (i k : Nat) (b : Byte), f[i]? = some b → k < 8 →
    (wireBits f)[8 * i + k]? = some (b.getLsbD (7 - k))) ∧
  ∀ (a : Nat) (v : Byte), a ≤ 0x13 →
    (wireBits (writeFrame a v)).head? = some true ∧ (wireBits (readFrame a)).head? = some false

/-- R108: table words of five families, bit by bit, decode to their operations: `readRegister`,
`writeRegister`, `setMode(rx)`, `getStatus`, `setRxFrequency`, `getTxFrequency`, `setLnaGain`, `setDacGain`.
Which of the operations of one pattern is read is assumption 2's. `0x1400`, the read of the reserved address 0x14
(R97), is `readRegister(0x14)`, whose meaning raises `InvalidArgument`; a word whose read has a data byte other than
0x00 is no operation's pattern (R111). -/
def Obligations.TableWordsDecode : Prop :=
  decodeTableWord 16 0b0001001100000000 = some (.readRegister 0x13) ∧
  decodeTableWord 16 0b1000110011011111 = some (.writeRegister 0x0C 0xDF) ∧
  decodeTableWord 16 0b1000000000000011 = some .setModeRx ∧
  decodeTableWord 16 0b0001000100000000 = some .getStatus ∧
  decodeTableWord 48 0b100000110000000010000010000000001000000111011001
    = some (.setRxFrequency 434000000) ∧
  decodeTableWord 48 0b000001100000000000000101000000000000010000000000 = some .getTxFrequency ∧
  decodeTableWord 32 0b10001100110111110000110000000000 = some (.setLnaGain 6) ∧
  decodeTableWord 32 0b10001000000111110000100000000000 = some (.setDacGain (-6)) ∧
  decodeTableWord 16 0b0001010000000000 = some (.readRegister 0x14) ∧
  decodeTableWord 16 0b0000000000000001 = none

/-- R108 read backwards: the frame decoder gives back every operation that owns its pattern, with every operand
at every value the pattern admits (assumption 2 for which operation owns a pattern), reserved addresses and empty
bursts included: their frames are never sent, and stand for the call that is turned away (R97). -/
def Obligations.FramesDecodeBack : Prop :=
  ∀ (fxosc : Nat) (table : List Host.Cell) (r : Byte) (i : Instr),
    table.length = 17 → ownsFrames fxosc i = true →
    decodeFrames fxosc table (framesOf fxosc table r i) = .ok i

/-- R105 to R107: every call that the notation can write is read back from its own text (the text's form is the
model's, assumption 25). -/
def Obligations.TextDecodesBack : Prop :=
  ∀ c : Call, (match c with | .op i => i.writable | .scoped i => i.writable) = true →
    decodeCall (encodeCall c) = .ok c

/-! ### Arithmetic -/

/-- R13, R150, R151: the two frequency formulas, in exact rationals with ties up, their integer forms, and where
their values lie. -/
def Obligations.FrequencyFormulas : Prop :=
  ∀ fxosc f w : Nat, 0 < fxosc →
    (tuningWord fxosc f : Int) = ⌊(f : Rat) * 2 ^ 20 / fxosc + 1 / 2⌋ ∧
    tuningWord fxosc f = (f * 2 ^ 21 + fxosc) / (2 * fxosc) ∧
    (wordHz fxosc w : Int) = ⌊(fxosc : Rat) * w / 2 ^ 20 + 1 / 2⌋ ∧
    wordHz fxosc w = (fxosc * w + 2 ^ 19) / 2 ^ 20 ∧
    (legalFxosc fxosc = true → 400000000 ≤ f → f ≤ 510000000 → tuningWord fxosc f ≤ 0xFFFFFF) ∧
    (legalFxosc fxosc = true → w ≤ 0xFFFFFF → wordHz fxosc w ≤ 2 ^ 32 - 1)

/-- R152: the legal range of `FXOSC`, why each bound is where it is, and the refusal outside it, of an operation
that has passed its phase check (which of the two comes first is assumption 14's). -/
def Obligations.FxoscRange : Prop :=
  (∀ fxosc : Nat, legalFxosc fxosc = true ↔ 31875001 ≤ fxosc ∧ fxosc ≤ 268435471) ∧
  legalFxosc 32000000 = true ∧
  (∀ fxosc : Nat, 0 < fxosc → (tuningWord fxosc 510000000 ≤ 0xFFFFFF ↔ 31875001 ≤ fxosc)) ∧
  (∀ fxosc : Nat, wordHz fxosc 0xFFFFFF ≤ 2 ^ 32 - 1 ↔ fxosc ≤ 268435471) ∧
  ∀ (s : State) (f : Nat), s.lockFree = true → s.ctl.phase = .ready →
    legalFxosc s.cfg.fxosc = false →
    exec (.setRxFrequency f) s = .refused .fxoscOutsideRange ∧
    exec (.setTxFrequency f) s = .refused .fxoscOutsideRange ∧
    exec .getRxFrequency s = .refused .fxoscOutsideRange ∧
    exec .getTxFrequency s = .refused .fxoscOutsideRange

/-- R157, as far as it speaks of the formulas: the round trip's error, and at 32 MHz. R159: both formulas are monotone,
and the words of valid frequencies at 32 MHz. -/
def Obligations.RoundTripAndMonotone : Prop :=
  (∀ fxosc f : Nat, legalFxosc fxosc = true → 400000000 ≤ f → f ≤ 510000000 →
    |(wordHz fxosc (tuningWord fxosc f) : Int) - f| ≤ ⌊(fxosc : Rat) / 2 ^ 21 + 1 / 2⌋) ∧
  ⌊(32000000 : Rat) / 2 ^ 21 + 1 / 2⌋ = 15 ∧ ⌈(32000000 : Rat) / 2 ^ 20⌉ = 31 ∧
  (∀ fxosc f f' : Nat, 0 < fxosc → f ≤ f' → tuningWord fxosc f ≤ tuningWord fxosc f') ∧
  (∀ fxosc w w' : Nat, w ≤ w' → wordHz fxosc w ≤ wordHz fxosc w') ∧
  ∀ f : Nat, 400000000 ≤ f → f ≤ 510000000 →
    0xC80000 ≤ tuningWord 32000000 f ∧ tuningWord 32000000 f ≤ 0xFF0000 ∧
    0xC8 ≤ (wordMsb (tuningWord 32000000 f)).toNat

/-- R100: a 24-bit word is split into its bits 23:16, 15:8 and 7:0, and recombined big-endian. -/
def Obligations.WordSplitAndJoin : Prop :=
  (∀ w : Nat, w < 2 ^ 24 →
    (wordMsb w).toNat = w / 2 ^ 16 ∧ (wordMid w).toNat = w / 2 ^ 8 % 2 ^ 8 ∧
    (wordLsb w).toNat = w % 2 ^ 8 ∧ joinWord (wordMsb w) (wordMid w) (wordLsb w) = w) ∧
  ∀ h m l : Byte, joinWord h m l = h.toNat * 2 ^ 16 + m.toNat * 2 ^ 8 + l.toNat ∧
    wordMsb (joinWord h m l) = h ∧ wordMid (joinWord h m l) = m ∧ wordLsb (joinWord h m l) = l

/-- R98, R101, R104: an insertion puts the code in its field and keeps every bit outside the mask, for any code
that fits; R99 and R42: the MODE bit operations and the named modes. -/
def Obligations.FieldPacking : Prop :=
  (∀ (r m : Byte) (sh c : Nat),
    insertField r m sh c = (r &&& ~~~m) ||| ((BitVec.ofNat 8 c <<< sh) &&& m)) ∧
  (∀ (r : Byte) (c : Nat),
    (c < 8 → lnaField.extract (lnaField.insert r c) = c) ∧
    (c < 16 → pgaField.extract (pgaField.insert r c) = c) ∧
    (c < 8 → dacField.extract (dacField.insert r c) = c) ∧
    (c < 16 → mixerField.extract (mixerField.insert r c) = c) ∧
    lnaField.insert r c &&& 0x1F = r &&& 0x1F ∧ pgaField.insert r c &&& 0xE1 = r &&& 0xE1 ∧
    dacField.insert r c &&& 0x8F = r &&& 0x8F ∧ mixerField.insert r c &&& 0xF0 = r &&& 0xF0) ∧
  (∀ r : Byte,
    setModeBit r .ref = r ||| (1 <<< 0) ∧ setModeBit r .rx = r ||| (1 <<< 1) ∧
    setModeBit r .tx = r ||| (1 <<< 2) ∧ setModeBit r .driver = r ||| (1 <<< 3) ∧
    clearModeBit r .ref = r &&& 0xFE ∧ clearModeBit r .rx = r &&& 0xFD ∧
    clearModeBit r .tx = r &&& 0xFB ∧ clearModeBit r .driver = r &&& 0xF7) ∧
  [NamedMode.sleep, .standby, .rx, .tx, .txFull, .fullDuplex].map NamedMode.value
    = [0x00, 0x01, 0x03, 0x05, 0x0D, 0x0F]

/-- R165, R167, R169, R171: the four gain encoders. -/
def Obligations.GainEncoders : Prop :=
  ∀ g : Rat,
    encodeLna g = (if 45 < g then 1 else if 39 < g then 2 else if 30 < g then 3 else if 18 < g then 4
      else if 6 < g then 5 else 6) ∧
    (encodePga g : Int) = ⌊max 0 (min g 30) / 2⌋ ∧
    encodeDac g = (if g = 0 then 3 else if g = -3 then 2 else if g = -6 then 1 else if g = -9 then 0
      else 2) ∧
    (encodeMixer g : Int) = ⌊(max (-37.5) (min g (-7.5)) + 37.5) / 2 + 1 / 2⌋

/-- R175 and R176: every code an encoder produces fits its field, and which encoders are monotone. -/
def Obligations.GainEncoderProperties : Prop :=
  (∀ g : Rat,
    1 ≤ encodeLna g ∧ encodeLna g ≤ 6 ∧ encodePga g ≤ 15 ∧ encodeDac g ≤ 3 ∧ encodeMixer g ≤ 15) ∧
  (∀ g g' : Rat, g ≤ g' →
    encodeLna g' ≤ encodeLna g ∧ encodePga g ≤ encodePga g' ∧ encodeMixer g ≤ encodeMixer g') ∧
  (∃ g g' : Rat, g ≤ g' ∧ encodeDac g' < encodeDac g) ∧ ∃ g g' : Rat, g ≤ g' ∧ encodeDac g < encodeDac g'

/-- R197 and R200: the status record and the version string of every byte. -/
def Obligations.StatusAndVersionDecoders : Prop :=
  (∀ s : Byte, decodeStatus s = ⟨s.getLsbD 3, s.getLsbD 2, s.getLsbD 1, s.getLsbD 0⟩) ∧
  ∀ v : Byte, decodeVersion v
    = 'V' :: (Nat.repr (v.toNat / 16)).toList
        ++ (if v.toNat % 16 = 0 then [] else [Char.ofNat ('A'.toNat + v.toNat % 16 - 1)])

/-! ### The transport -/

/-- R114, R115, R131: the outcomes of `spiOpen` and `spiClose`. An open sets the mode, the word size and the
clock. A close is idempotent and closes whether or not the release reports an error. A failed attempt is in
the trace with `ok` false (assumption 21). -/
def Obligations.TransportOpensAndCloses : Prop :=
  ∀ s : State, s.lockFree = true →
    (s.alone.spi.isOpen = true →
      exec .spiOpen s = .next (s.rejected .resourceUnavailable .transportAlreadyOpen)) ∧
    (s.alone.spi.isOpen = false → s.answer.status = .ok →
      ∃ t, exec .spiOpen s = .next t ∧
        Returned s t [] [(.spiOpen s.cfg.spiDevice 0 8 s.cfg.spiSpeedHz, true)] (.ok .unit) ∧
        t.alone = { s.alone with spi := ⟨true, s.cfg.spiDevice, 0, 8, s.cfg.spiSpeedHz⟩ } ∧
        t.ctl = s.ctl ∧ t.device = s.device ∧ t.lastEnd = s.lastEnd) ∧
    (s.alone.spi.isOpen = false → s.answer.status = .failed →
      ∃ t, exec .spiOpen s = .next t ∧
        Returned s t [] [(.spiOpen s.cfg.spiDevice 0 8 s.cfg.spiSpeedHz, false)]
          (.err ⟨.resourceUnavailable, .spiDeviceCannotOpen, []⟩) ∧
        SameParts s t ∧ t.device = s.device ∧ t.lastEnd = s.lastEnd) ∧
    (s.alone.spi.isOpen = false → exec .spiClose s = .next (s.deliver (.ok .unit))) ∧
    (s.alone.spi.isOpen = true → s.answer.status ≠ .stalled →
      ∃ t, exec .spiClose s = .next t ∧
        Returned s t [] [(.spiRelease, s.answer.status == .ok)]
          (if s.answer.status = .ok then .ok .unit else .err ⟨.transportFailure, .releaseError, []⟩) ∧
        t.alone = { s.alone with spi := { s.alone.spi with isOpen := false } } ∧
        t.ctl = s.ctl ∧ t.device = s.device ∧ t.lastEnd = s.lastEnd)

/-- R112, R113, R118, R123: a register write that goes through sends `[addr | 0x80, value]`, and its whole trace:
a gap only where the bus is not yet ready, for exactly what is left (assumption 6), the transfer, and the gap
of at least 10 µs after it. `spi.lastEnd` is the transfer's end (assumption 5). R248: a hazard leaves registers
unknown, and that it leaves every one so is assumption 16's. -/
def Obligations.WriteRegisterCompletes : Prop :=
  ∀ (s : State) (a : Nat) (v : Byte), s.lockFree = true → s.alone.spi.isOpen = true → a ≤ 0x13 →
    s.answersOk [2] = true →
    ∃ t before start finish stop rx, exec (.writeRegister a v) s = .next t ∧
      Returned s t [[BitVec.ofNat 8 a ||| 0x80, v]] [] (.ok .unit) ∧ WroteRegs s t [(a, v)] ∧
      (s.hazardNext = true → t.device.regs = []) ∧
      t.trace = s.trace ++ before ++
        [⟨start, finish, s.caller, .xfer [BitVec.ofNat 8 a ||| 0x80, v] rx, true⟩,
         ⟨finish, stop, s.caller, .gap 10000, true⟩] ∧
      rx.length = 2 ∧ s.now ≤ start ∧ start ≤ finish ∧ finish + 10000 ≤ stop ∧
      t.lastEnd = some finish ∧ t.now = stop ∧
      (∀ e, s.lastEnd = some e → e + 10000 ≤ start) ∧
      ((∀ e, s.lastEnd = some e → e + 10000 ≤ s.now) → before = []) ∧
      (∀ e, s.lastEnd = some e → s.now < e + 10000 →
        before = [⟨s.now, e + 10000, s.caller, .gap 10000, true⟩])

/-- R119 and R122: a register read that goes through sends `[addr & 0x7F, 0x00]` and gives the second response
byte: the draw, and in a hazard too (R248), but the known byte under `DEVICE_COHERENT` (R40; assumption 16).
The probe is the read of VERSION, and judges nothing. -/
def Obligations.ReadRegisterCompletes : Prop :=
  ∀ s : State, s.lockFree = true → s.alone.spi.isOpen = true → s.answersOk [2] = true →
    (∀ a, a ≤ 0x13 → ∃ t, exec (.readRegister a) s = .next t ∧
      Returned s t [[BitVec.ofNat 8 a &&& 0x7F, 0x00]] [] (.ok (.byte (s.byteRead 0 1 a))) ∧
      ReadRegs s t) ∧
    ∃ t, exec .checkDevice s = .next t ∧
      Returned s t [[0x07, 0x00]] [] (.ok (.byte (s.byteRead 0 1 0x07))) ∧ ReadRegs s t

/-- R120 and R121: a burst that goes through is one transfer, its data bytes for ascending addresses. R248: a
hazard leaves no register known, and a read in it gives draws (R40; assumption 16). -/
def Obligations.BurstsComplete : Prop :=
  ∀ s : State, s.lockFree = true → s.alone.spi.isOpen = true →
    (∀ (a : Nat) (vs : List Byte), vs ≠ [] → a + vs.length ≤ 0x14 → s.answersOk [vs.length + 1] = true →
      ∃ t, exec (.burstWrite a vs) s = .next t ∧
        Returned s t [(BitVec.ofNat 8 a ||| 0x80) :: vs] [] (.ok .unit) ∧
        WroteRegs s t (vs.zipIdx.map fun p => (a + p.2, p.1)) ∧
        (s.hazardNext = true → t.device.regs = [])) ∧
    ∀ (a n : Nat), 0 < n → a + n ≤ 0x14 → s.answersOk [n + 1] = true →
      ∃ t bs, exec (.burstRead a n) s = .next t ∧
        Returned s t [(BitVec.ofNat 8 a &&& 0x7F) :: List.replicate n 0x00] [] (.ok (.bytes bs)) ∧
        bs.length = n ∧ (∀ k < n, bs[k]? = some (s.byteRead 0 (k + 1) (a + k))) ∧ ReadRegs s t

/-- R116, R117, R217, R222, R223: the checks of the register operations, in their order, each before any event:
open, then the burst's shape, then the address range. -/
def Obligations.RegisterOperationChecks : Prop :=
  ∀ s : State, s.lockFree = true →
    (s.alone.spi.isOpen = false → ∀ (a : Nat) (v : Byte) (vs : List Byte) (n : Int),
      ∀ i ∈ [Instr.writeRegister a v, .readRegister a, .burstWrite a vs, .burstRead a n, .checkDevice],
        exec i s = .next (s.rejected .invalidState .transportNotOpen)) ∧
    (s.alone.spi.isOpen = true →
      (∀ (a : Nat) (v : Byte), 0x13 < a →
        exec (.writeRegister a v) s = .next (s.rejected .invalidArgument .addressOutsideRange) ∧
        exec (.readRegister a) s = .next (s.rejected .invalidArgument .addressOutsideRange)) ∧
      (∀ (a : Nat) (n : Int), n ≤ 0 →
        exec (.burstWrite a []) s = .next (s.rejected .invalidArgument .emptyValues) ∧
        exec (.burstRead a n) s = .next (s.rejected .invalidArgument .nonPositiveCount)) ∧
      (∀ (a : Nat) (vs : List Byte), vs ≠ [] → 0x13 < a + vs.length - 1 →
        exec (.burstWrite a vs) s = .next (s.rejected .invalidArgument .addressOutsideRange)) ∧
      ∀ (a n : Nat), 0 < n → 0x13 < a + n - 1 →
        exec (.burstRead a n) s = .next (s.rejected .invalidArgument .addressOutsideRange))

/-- R108: every operation the block can act on puts exactly its pattern's frames on the bus, in order, and no
other event, and returns what the bytes it read stand for, where the platform answers each transfer. The write
of a read-modify-write is computed from the byte read (R82). What a read gives under `DEVICE_COHERENT` is
assumption 16's. R58: under a legal configuration no controller operation's pattern writes STAT. -/
def Obligations.OperationsSendTheirPattern : Prop :=
  (∀ (i : Instr) (s : State), s.acceptsRegisterOp i = true → s.patternOf i ≠ [] →
    s.answersOk ((s.patternOf i).map List.length) = true →
    ∃ t, exec i s = .next t ∧
      Returned s t (s.patternOf i) []
        (.ok (valueRead s.cfg.fxosc (s.bytesRead (s.patternOf i)) i)) ∧
      SameParts s t ∧ SameLines s t ∧ BusRested t) ∧
  ∀ (i : Instr) (s : State), i.isController = true → s.cfg.legal = true →
    ∀ f ∈ s.patternOf i, f.head? ≠ some 0x91

/-- R124, R158, R206, R225: a frame that the platform reports failed ends its operation with
`TransportFailure`. The frames before it stay sent, none follows, nothing is retried, the instance's
components stay as they were, and what the failed frame's registers hold is unknown. -/
def Obligations.FailedFrameEndsOperation : Prop :=
  ∀ (i : Instr) (s : State) (k : Nat), s.acceptsRegisterOp i = true →
    k < (s.patternOf i).length →
    s.answersOk (List.replicate k 2) = true → (s.answerAt k).status = .failed →
    ∃ t b ds, exec i s = .next t ∧
      Returned s t ((s.patternOf i).take (k + 1)) [] (.err ⟨.transportFailure, .busError, []⟩) ∧
      SameParts s t ∧ SameLines s t ∧ t.lastEnd = some t.now ∧
      (s.patternOf i)[k]? = some (b :: ds) ∧
      ∀ a, frameAddr b ≤ a → a < frameAddr b + ds.length → Memory.read a t.device.regs = none

/-- R126: a response of another length than the request's is reported as `InvalidArgument`, after the transfer
has happened. That this holds of the gain, `setMode` and enable operations too is assumption 36's: R217's last
sentence and R174 say that they never raise it. -/
def Obligations.MismatchedResponse : Prop :=
  ∀ (i : Instr) (s : State) (k : Nat) (f : Frame), s.acceptsRegisterOp i = true →
    (s.patternOf i)[k]? = some f →
    s.answersOk (List.replicate k 2) = true → (s.answerAt k).status = .ok →
    (s.answerAt k).rx.length ≠ f.length →
    ∃ t, exec i s = .next t ∧
      Returned s t ((s.patternOf i).take (k + 1)) [] (.err ⟨.invalidArgument, .mismatchedLengths, []⟩) ∧
      SameParts s t ∧ SameLines s t ∧ t.lastEnd = some t.now

/-- R224 and R80: a stalled transfer leaves its call with no return and the lock held, and every later operation
waits forever (assumptions 7 and 8). -/
def Obligations.StalledFrameHoldsLock : Prop :=
  ∀ (i : Instr) (s : State) (k : Nat), s.acceptsRegisterOp i = true → s.cfg.serialized = true →
    k < (s.patternOf i).length →
    s.answersOk (List.replicate k 2) = true → (s.answerAt k).status = .stalled →
    ∃ t, exec i s = .next t ∧ t.returns = s.returns ∧ t.owner = some s.caller ∧
      t.frames = s.frames ++ (s.patternOf i).take k ∧
      ∀ j, exec j t = .fault .waitsForLock

/-! ### The line sequencer -/

/-- R133: a `gpioOpen` that goes through drives both lines low, in acquisition order. R147: a device held in reset
is released, and no register changes. R248: where the wired reset line was high, it falls in the call. -/
def Obligations.GpioOpenCompletes : Prop :=
  ∀ (s : State) (chip : Path) (l₁ l₂ : Nat), s.lockFree = true → s.alone.gpio.isOpen = false →
    s.linesFree s.alone.gpio s.ctl.gpio chip [l₁, l₂] = true → l₁ ≠ l₂ → s.answersSucceed 3 = true →
    ∃ t, exec (.gpioOpen chip l₁ l₂) s = .next t ∧
      Returned s t [] [(.chipOpen chip, true), (.lineRequest l₁, true), (.lineSet l₁ false, true),
        (.lineRequest l₂, true), (.lineSet l₂ false, true)] (.ok .unit) ∧
      t.alone = { s.alone with
        gpio := ⟨true, chip, l₂ :: l₁ :: s.alone.gpio.lines, l₁, l₂, false, false⟩ } ∧
      t.ctl = s.ctl ∧ t.lastEnd = s.lastEnd ∧ t.device.regs = s.device.regs ∧
      (t.alone.gpio.isWired t.cfg = true →
        t.device.held = false ∧ t.device.resetPin = false ∧ t.device.txrxPin = false ∧
        (s.device.held = true ∨ s.device.resetPin = true →
          ∃ f, t.device.fell = some f ∧ s.now ≤ f ∧ f ≤ t.now))

/-- R133 and R215: the ways a `gpioOpen` fails; a failure part-way releases what was acquired, in reverse order,
and the sequencer stays closed. The second request fails where it names the first line again. The failed
attempts in the trace are assumption 21's. -/
def Obligations.GpioOpenFailures : Prop :=
  ∀ (s : State) (chip : Path) (l₁ l₂ : Nat), s.lockFree = true →
    (s.alone.gpio.isOpen = true → exec (.gpioOpen chip l₁ l₂) s
      = .next (s.rejected .resourceUnavailable .gpioAlreadyOpen)) ∧
    (s.alone.gpio.isOpen = false → s.answer.status = .failed →
      ∃ t, exec (.gpioOpen chip l₁ l₂) s = .next t ∧
        Returned s t [] [(.chipOpen chip, false)] (.err ⟨.resourceUnavailable, .chipMissing, []⟩) ∧
        SameParts s t ∧ t.device = s.device) ∧
    (s.alone.gpio.isOpen = false → s.answer.status = .ok → (s.answerAt 1).status ≠ .stalled →
      (s.answerAt 1).status = .failed ∨ s.linesFree s.alone.gpio s.ctl.gpio chip [l₁] = false →
      (s.answerAt 2).status = .ok →
      ∃ t, exec (.gpioOpen chip l₁ l₂) s = .next t ∧
        Returned s t [] [(.chipOpen chip, true), (.lineRequest l₁, false), (.chipRelease, true)]
          (.err ⟨.resourceUnavailable, .lineClaimed, []⟩) ∧
        t.alone.gpio.isOpen = false ∧ t.alone.gpio.lines = s.alone.gpio.lines ∧
        t.alone.spi = s.alone.spi ∧ t.ctl = s.ctl ∧ t.device = s.device) ∧
    (s.alone.gpio.isOpen = false → s.answersSucceed 2 = true →
      s.linesFree s.alone.gpio s.ctl.gpio chip [l₁] = true → (s.answerAt 2).status ≠ .stalled →
      (s.answerAt 2).status = .failed ∨ s.linesFree s.alone.gpio s.ctl.gpio chip [l₂] = false ∨ l₁ = l₂ →
      (s.answerAt 3).status = .ok → (s.answerAt 4).status = .ok →
      ∃ t, exec (.gpioOpen chip l₁ l₂) s = .next t ∧
        Returned s t [] [(.chipOpen chip, true), (.lineRequest l₁, true), (.lineSet l₁ false, true),
          (.lineRequest l₂, false), (.lineRelease l₁, true), (.chipRelease, true)]
          (.err ⟨.resourceUnavailable, .lineClaimed, []⟩) ∧
        t.alone.gpio.isOpen = false ∧ t.alone.gpio.lines = s.alone.gpio.lines ∧
        t.alone.spi = s.alone.spi ∧ t.ctl = s.ctl ∧ t.device.regs = s.device.regs)

/-- R134: every line operation other than the open and the close is refused while the sequencer is closed. -/
def Obligations.GpioNotOpenRejected : Prop :=
  ∀ (s : State) (b : Bool), s.lockFree = true → s.alone.gpio.isOpen = false →
    ∀ i ∈ [Instr.reset, .setResetPin b, .getResetPin, .setTxRxPin b, .getTxRxPin],
      exec i s = .next (s.rejected .invalidState .gpioNotOpen)

/-- R135, R204, R246, R247: the reset pulse and the settle hold, and their times: the line is high for at least
100 µs, and the call returns at least 5 ms after it fell. After the return no transfer is a hazard. -/
def Obligations.ResetPulse : Prop :=
  ∀ (s : State) (i : Instr), s.lockFree = true →
    i = .reset ∨ (i = .resetDevice ∧ s.ctl.phase = .ready) →
    (s.gpioFor i).isOpen = true → s.answersSucceed 2 = true →
    ∃ t, exec i s = .next t ∧
      Returned s t [] [(.lineSet (s.gpioFor i).resetLine true, true), (.hold 100000, true),
        (.lineSet (s.gpioFor i).resetLine false, true), (.hold 5000000, true)] (.ok .unit) ∧
      OnlyGpio i s t { s.gpioFor i with reset := false } ∧
      t.lastEnd = s.lastEnd ∧ s.now + 5100000 ≤ t.now ∧
      ((s.gpioFor i).isWired s.cfg = true →
        t.device.txrxPin = s.device.txrxPin ∧ t.device.resetPin = false ∧ t.device.held = false ∧
        t.device.hazard t.now = false ∧
        ∃ fell, t.device.fell = some fell ∧ fell + 5000000 ≤ t.now ∧
          (s.device.held = false →
            ∃ rose, t.device.rose = some rose ∧ s.now ≤ rose ∧ rose + 100000 ≤ fell))

/-- R239, R253: what the registers hold after the wired reset line was pulsed, by `reset`, by `resetDevice` or by
hand, from a low line or a high one. After at least 100 µs a register holds its entry of `REG_DEFAULTS`, and is
unknown where there is none; after less, and while the line is high, every register is unknown (R141). VERSION
and STAT keep what they hold. That the record follows the pulse, and that VERSION and STAT stay out of it, is
the model's choice (assumptions 17 and 18). -/
def Obligations.ResetGivesDefaults : Prop :=
  ∀ s : State, s.lockFree = true → Memory.wf s.cfg.regDefaults = true →
    (∀ i, i = .reset ∨ (i = .resetDevice ∧ s.ctl.phase = .ready) →
      (s.gpioFor i).isOpen = true → (s.gpioFor i).isWired s.cfg = true → s.answersSucceed 2 = true →
      s.device.held = false ∨ (∃ r, s.device.rose = some r ∧ r ≤ s.now) →
      ∃ t, exec i s = .next t ∧ ∀ a, Memory.read a t.device.regs =
        if a = Reg.version.addr ∨ a = Reg.stat.addr then Memory.read a s.device.regs
        else Memory.read a s.cfg.regDefaults) ∧
    (s.alone.gpio.isOpen = true → s.alone.gpio.isWired s.cfg = true → s.answer.status = .ok →
      (s.device.held = false → ∃ t, exec (.setResetPin true) s = .next t ∧ t.device.held = true ∧
        ∀ a, Memory.read a t.device.regs =
          if a = Reg.version.addr ∨ a = Reg.stat.addr then Memory.read a s.device.regs else none) ∧
      ∀ r, s.device.held = true → s.device.rose = some r →
        ∃ t, exec (.setResetPin false) s = .next t ∧ t.device.held = false ∧
          ∀ a, Memory.read a t.device.regs =
            if a = Reg.version.addr ∨ a = Reg.stat.addr then Memory.read a s.device.regs
            else if r + 100000 ≤ t.now then Memory.read a s.cfg.regDefaults
            else none)

/-- R136, R138, R202: a line write that goes through. The TX/RX line's write moves no register and, with R44,
the reset line's level stays; MODE is not touched. -/
def Obligations.PinWritesComplete : Prop :=
  ∀ (s : State) (b : Bool), s.lockFree = true → s.answer.status = .ok →
    (s.alone.gpio.isOpen = true →
      ∃ t, exec (.setResetPin b) s = .next t ∧
        Returned s t [] [(.lineSet s.alone.gpio.resetLine b, true)] (.ok .unit) ∧
        OnlyGpio (.setResetPin b) s t { s.alone.gpio with reset := b } ∧ t.lastEnd = s.lastEnd ∧
        (s.device.held = b → t.device.regs = s.device.regs) ∧
        (s.alone.gpio.isWired s.cfg = true → t.device.held = b ∧ t.device.resetPin = b ∧
          t.device.txrxPin = s.device.txrxPin)) ∧
    ∀ i, i = .setTxRxPin b ∨ (i = .setTxRxSwitch b ∧ s.ctl.phase = .ready) →
      (s.gpioFor i).isOpen = true →
      ∃ t, exec i s = .next t ∧
        Returned s t [] [(.lineSet (s.gpioFor i).txrxLine b, true)] (.ok .unit) ∧
        OnlyGpio i s t { s.gpioFor i with txrx := b } ∧ t.lastEnd = s.lastEnd ∧
        ((s.gpioFor i).txrxLine ≠ s.cfg.resetLine → t.device.regs = s.device.regs) ∧
        ((s.gpioFor i).isWired s.cfg = true → t.device = { s.device with txrxPin := b })

/-- R137, R139, R203: a line read that goes through gives the driven level, and changes nothing. -/
def Obligations.PinReadsComplete : Prop :=
  ∀ (s : State) (i : Instr) (level : Bool), s.lockFree = true → (s.gpioFor i).isOpen = true →
    s.answer.status = .ok →
    (i = .getResetPin ∧ level = s.alone.gpio.reset) ∨ (i = .getTxRxPin ∧ level = s.alone.gpio.txrx) ∨
      (i = .getTxRxSwitch ∧ s.ctl.phase = .ready ∧ level = s.ctl.gpio.txrx) →
    ∃ t, exec i s = .next t ∧ Returned s t [] [] (.ok (.level level)) ∧ SameParts s t ∧
      t.device = s.device ∧ t.lastEnd = s.lastEnd

/-- R135, R202 to R204, R218, R225: a line write or read that fails, used alone or by the controller, is a
`TransportFailure`, and leaves `gpio.reset` and `gpio.txrx` at the last levels successfully driven. Where the
second write of the pulse fails, that is high. The failed attempt in the trace is assumption 21's. -/
def Obligations.LineFailures : Prop :=
  ∀ (s : State) (b : Bool), s.lockFree = true →
    (s.answer.status = .failed →
      (∀ i l lvl, (i, l, lvl) ∈ [(Instr.reset, s.alone.gpio.resetLine, true),
          (.setResetPin b, s.alone.gpio.resetLine, b), (.setTxRxPin b, s.alone.gpio.txrxLine, b),
          (.resetDevice, s.ctl.gpio.resetLine, true), (.setTxRxSwitch b, s.ctl.gpio.txrxLine, b)] →
        (s.gpioFor i).isOpen = true → (i.isController = true → s.ctl.phase = .ready) →
        ∃ t, exec i s = .next t ∧
          Returned s t [] [(.lineSet l lvl, false)] (.err ⟨.transportFailure, .lineError, []⟩) ∧
          SameParts s t) ∧
      ∀ i ∈ [Instr.getResetPin, .getTxRxPin, .getTxRxSwitch],
        (s.gpioFor i).isOpen = true → (i.isController = true → s.ctl.phase = .ready) →
        ∃ t, exec i s = .next t ∧ Returned s t [] [] (.err ⟨.transportFailure, .lineError, []⟩) ∧
          SameParts s t ∧ t.device = s.device) ∧
    (s.answer.status = .ok → (s.answerAt 1).status = .failed →
      ∀ i, i = .reset ∨ (i = .resetDevice ∧ s.ctl.phase = .ready) → (s.gpioFor i).isOpen = true →
        ∃ t, exec i s = .next t ∧
          Returned s t [] [(.lineSet (s.gpioFor i).resetLine true, true), (.hold 100000, true),
            (.lineSet (s.gpioFor i).resetLine false, false)]
            (.err ⟨.transportFailure, .lineError, []⟩) ∧
          OnlyGpio i s t { s.gpioFor i with reset := true })

/-- R140: `gpioClose` is idempotent, attempts every release in reverse order whatever fails, and reports one
error as itself and more as a composite. No register changes: R257 says so of a session's close, and of a
sequencer used alone it is the model's choice (assumption 19). R146, R248: the wired reset line is at the level
the platform leaves it at; while that is high every transfer is a hazard, and where it was high before and is
not, it fell. -/
def Obligations.GpioCloseOutcomes : Prop :=
  ∀ s : State, s.lockFree = true →
    (s.alone.gpio.isOpen = false → exec .gpioClose s = .next (s.deliver (.ok .unit))) ∧
    (s.alone.gpio.isOpen = true → (∀ k < 3, (s.answerAt k).status ≠ .stalled) →
      ∃ t, exec .gpioClose s = .next t ∧
        Returned s t []
          [(.lineRelease s.alone.gpio.txrxLine, (s.answerAt 0).status == .ok),
           (.lineRelease s.alone.gpio.resetLine, (s.answerAt 1).status == .ok),
           (.chipRelease, (s.answerAt 2).status == .ok)]
          (match (List.range 3).countP fun k => (s.answerAt k).status == .failed with
            | 0 => .ok .unit
            | 1 => .err ⟨.transportFailure, .releaseError, []⟩
            | n => .err ⟨.compositeCloseError, .closeErrors, List.replicate n .transportFailure⟩) ∧
        t.alone.gpio.isOpen = false ∧ t.alone.spi = s.alone.spi ∧ t.ctl = s.ctl ∧
        t.device.regs = s.device.regs ∧ t.lastEnd = s.lastEnd ∧
        (s.alone.gpio.isWired s.cfg = true →
          t.device.resetPin = (s.answerAt 1).level ∧
          (t.device.resetPin = true → ∀ n, t.device.hazard n = true) ∧
          (s.device.resetPin = true → t.device.resetPin = false →
            ∃ f, t.device.fell = some f ∧ s.now ≤ f ∧ f ≤ t.now)))

/-! ### The synthesizer -/

/-- R153, R155, R161: a frequency set that goes through sends the three bytes of `Frf(f)` to its own word's
registers, most significant first, and touches no other register. -/
def Obligations.SetFrequencyCompletes : Prop :=
  ∀ (s : State) (f w : Nat), s.lockFree = true → s.inSession = true → legalFxosc s.cfg.fxosc = true →
    400000000 ≤ f → f ≤ 510000000 → s.answersOk [2, 2, 2] = true →
    w = (f * 2 ^ 21 + s.cfg.fxosc) / (2 * s.cfg.fxosc) →
    (∃ t, exec (.setRxFrequency f) s = .next t ∧
      Returned s t [[0x81, BitVec.ofNat 8 (w >>> 16)], [0x82, BitVec.ofNat 8 (w >>> 8)],
        [0x83, BitVec.ofNat 8 w]] [] (.ok .unit) ∧
      WroteRegs s t [(0x01, BitVec.ofNat 8 (w >>> 16)), (0x02, BitVec.ofNat 8 (w >>> 8)),
        (0x03, BitVec.ofNat 8 w)]) ∧
    ∃ t, exec (.setTxFrequency f) s = .next t ∧
      Returned s t [[0x84, BitVec.ofNat 8 (w >>> 16)], [0x85, BitVec.ofNat 8 (w >>> 8)],
        [0x86, BitVec.ofNat 8 w]] [] (.ok .unit) ∧
      WroteRegs s t [(0x04, BitVec.ofNat 8 (w >>> 16)), (0x05, BitVec.ofNat 8 (w >>> 8)),
        (0x06, BitVec.ofNat 8 w)]

/-- R154, R156: a read-back that goes through reads the three registers of its word and converts whatever word
they give, with no range check. What each read gives under `DEVICE_COHERENT` is assumption 16's. -/
def Obligations.GetFrequencyCompletes : Prop :=
  ∀ (s : State) (h m l : Byte), s.lockFree = true → s.inSession = true →
    legalFxosc s.cfg.fxosc = true → s.answersOk [2, 2, 2] = true →
    (h = s.byteRead 0 1 0x01 → m = s.byteRead 1 1 0x02 → l = s.byteRead 2 1 0x03 →
      ∃ t, exec .getRxFrequency s = .next t ∧
        Returned s t [[0x01, 0x00], [0x02, 0x00], [0x03, 0x00]] []
          (.ok (.hz ((s.cfg.fxosc * (h.toNat * 2 ^ 16 + m.toNat * 2 ^ 8 + l.toNat) + 2 ^ 19) / 2 ^ 20))) ∧
        ReadRegs s t) ∧
    (h = s.byteRead 0 1 0x04 → m = s.byteRead 1 1 0x05 → l = s.byteRead 2 1 0x06 →
      ∃ t, exec .getTxFrequency s = .next t ∧
        Returned s t [[0x04, 0x00], [0x05, 0x00], [0x06, 0x00]] []
          (.ok (.hz ((s.cfg.fxosc * (h.toNat * 2 ^ 16 + m.toNat * 2 ^ 8 + l.toNat) + 2 ^ 19) / 2 ^ 20))) ∧
        ReadRegs s t)

/-- R149: a request outside the valid range is refused before any transfer, for both words. -/
def Obligations.FrequencyRangeChecked : Prop :=
  (∀ f : Nat, validHz f = true ↔ 400000000 ≤ f ∧ f ≤ 510000000) ∧
  ∀ (s : State) (f : Nat), s.lockFree = true → s.ctl.phase = .ready → legalFxosc s.cfg.fxosc = true →
    f < 400000000 ∨ 510000000 < f →
    exec (.setRxFrequency f) s = .next (s.rejected .invalidArgument .frequencyOutsideRange) ∧
    exec (.setTxFrequency f) s = .next (s.rejected .invalidArgument .frequencyOutsideRange)

/-- R158 and R250: where the second write of a frequency set fails, the word's high register has its new byte and
its low register its old one. -/
def Obligations.SetFrequencyFailsMidway : Prop :=
  ∀ (s : State) (f : Nat), s.lockFree = true → s.inSession = true → legalFxosc s.cfg.fxosc = true →
    400000000 ≤ f → f ≤ 510000000 → s.hazardNext = false → s.answersOk [2] = true →
    (s.answerAt 1).status = .failed →
    (∃ t, exec (.setRxFrequency f) s = .next t ∧
      Memory.read 0x01 t.device.regs = some (wordMsb (tuningWord s.cfg.fxosc f)) ∧
      Memory.read 0x02 t.device.regs = none ∧
      Memory.read 0x03 t.device.regs = Memory.read 0x03 s.device.regs) ∧
    ∃ t, exec (.setTxFrequency f) s = .next t ∧
      Memory.read 0x04 t.device.regs = some (wordMsb (tuningWord s.cfg.fxosc f)) ∧
      Memory.read 0x05 t.device.regs = none ∧
      Memory.read 0x06 t.device.regs = Memory.read 0x06 s.device.regs

/-- R157: under `DEVICE_COHERENT`, a set and then a get of either word give back the frequency within
`floor(FXOSC / 2^21 + 1/2)`. The record that the get reads is assumption 16's. -/
def Obligations.CoherentFrequencyRoundTrip : Prop :=
  ∀ (s : State) (f : Nat), s.lockFree = true → s.inSession = true → legalFxosc s.cfg.fxosc = true →
    s.cfg.deviceCoherent = true → s.hazardNext = false →
    400000000 ≤ f → f ≤ 510000000 → s.answersOk [2, 2, 2, 2, 2, 2] = true →
    (∃ t u g, exec (.setRxFrequency f) s = .next t ∧ exec .getRxFrequency t = .next u ∧
      u.returns = s.returns ++ [⟨s.caller, .ok .unit⟩, ⟨s.caller, .ok (.hz g)⟩] ∧
      |((g : Nat) : Int) - f| ≤ ⌊(s.cfg.fxosc : Rat) / 2 ^ 21 + 1 / 2⌋) ∧
    ∃ t u g, exec (.setTxFrequency f) s = .next t ∧ exec .getTxFrequency t = .next u ∧
      u.returns = s.returns ++ [⟨s.caller, .ok .unit⟩, ⟨s.caller, .ok (.hz g)⟩] ∧
      |((g : Nat) : Int) - f| ≤ ⌊(s.cfg.fxosc : Rat) / 2 ^ 21 + 1 / 2⌋

/-! ### The gain encoder and the enable operations -/

/-- R164, R166, R168, R170, R172: a gain setter that goes through reads its register and writes it back with only
its own field changed. What the read gives under `DEVICE_COHERENT` is assumption 16's. -/
def Obligations.GainSettersComplete : Prop :=
  ∀ (s : State) (g : Rat), s.lockFree = true → s.inSession = true → s.answersOk [2, 2] = true →
    ∀ (i : Instr) (a : Nat) (update : Byte → Byte) (r : Byte), r = s.byteRead 0 1 a →
      (i = .setLnaGain g ∧ a = 0x0C ∧
        update = fun r => (r &&& 0x1F) ||| BitVec.ofNat 8 (encodeLna g * 2 ^ 5)) ∨
      (i = .setPgaGain g ∧ a = 0x0C ∧
        update = fun r => (r &&& 0xE1) ||| BitVec.ofNat 8 (encodePga g * 2)) ∨
      (i = .setDacGain g ∧ a = 0x08 ∧
        update = fun r => (r &&& 0x8F) ||| BitVec.ofNat 8 (encodeDac g * 2 ^ 4)) ∨
      (i = .setMixerGain g ∧ a = 0x08 ∧
        update = fun r => (r &&& 0xF0) ||| BitVec.ofNat 8 (encodeMixer g)) →
      ∃ t, exec i s = .next t ∧
        Returned s t [[BitVec.ofNat 8 a, 0x00], [BitVec.ofNat 8 a ||| 0x80, update r]] [] (.ok .unit) ∧
        WroteRegs s t [(a, update r)]

/-- R190 to R193: an enable operation that goes through sets or clears exactly its one bit of MODE, and issues
the write even when nothing changes. What the read gives under `DEVICE_COHERENT` is assumption 16's. -/
def Obligations.EnableOperationsComplete : Prop :=
  ∀ (s : State) (on : Bool), s.lockFree = true → s.inSession = true → s.answersOk [2, 2] = true →
    ∀ (i : Instr) (mask r r' : Byte), r = s.byteRead 0 1 0x00 →
      r' = (if on then r ||| mask else r &&& ~~~mask) →
      (i = .enableRx on ∧ mask = 0x02) ∨ (i = .enableTx on ∧ mask = 0x04) ∨
        (i = .enablePA on ∧ mask = 0x08) →
      ∃ t, exec i s = .next t ∧ Returned s t [[0x00, 0x00], [0x80, r']] [] (.ok .unit) ∧
        WroteRegs s t [(0x00, r')]

/-- R173 and R53: under `DEVICE_COHERENT`, the two setters of one register, one after the other, leave both
codes in it and its reserved bit as first read (assumption 16 for the reads). -/
def Obligations.CoherentGainPairs : Prop :=
  ∀ (s : State) (g g' : Rat), s.lockFree = true → s.inSession = true → s.cfg.deviceCoherent = true →
    s.hazardNext = false → s.answersOk [2, 2, 2, 2] = true →
    (∃ t u, exec (.setDacGain g) s = .next t ∧ exec (.setMixerGain g') t = .next u ∧
      Memory.read 0x08 u.device.regs
        = some ((s.byteRead 0 1 0x08 &&& 0x80) ||| BitVec.ofNat 8 (encodeDac g * 2 ^ 4)
          ||| BitVec.ofNat 8 (encodeMixer g'))) ∧
    ∃ t u, exec (.setLnaGain g) s = .next t ∧ exec (.setPgaGain g') t = .next u ∧
      Memory.read 0x0C u.device.regs
        = some ((s.byteRead 0 1 0x0C &&& 0x01) ||| BitVec.ofNat 8 (encodeLna g * 2 ^ 5)
          ||| BitVec.ofNat 8 (encodePga g' * 2))

/-! ### The controller -/

/-- R181, R243: an `open` that goes through opens the transport, then the sequencer, and makes the controller
`Ready`; it issues no frame and no pulse, and leaves the device's registers as they were. R248: where the reset
line was high, it falls in the call. -/
def Obligations.OpenCompletes : Prop :=
  ∀ s : State, s.lockFree = true → s.sessionClosed = true → s.configFree = true →
    s.answersSucceed 4 = true →
    ∃ t, exec .openController s = .next t ∧ Returned s t [] s.openEvents (.ok .unit) ∧
      t.ctl = ⟨.ready, ⟨true, s.cfg.spiDevice, 0, 8, s.cfg.spiSpeedHz⟩,
        ⟨true, s.cfg.gpioChip, s.cfg.txrxLine :: s.cfg.resetLine :: s.ctl.gpio.lines,
         s.cfg.resetLine, s.cfg.txrxLine, false, false⟩⟩ ∧ t.alone = s.alone ∧
      t.lastEnd = s.lastEnd ∧ t.device.held = false ∧ t.device.resetPin = false ∧
      t.device.txrxPin = false ∧ t.device.regs = s.device.regs ∧
      (s.device.held = true ∨ s.device.resetPin = true →
        ∃ f, t.device.fell = some f ∧ s.now ≤ f ∧ f ≤ t.now)

/-- R181, R182: an `open` on a `Ready` controller is refused and changes nothing. One that fails is a
`ResourceUnavailable` and leaves the controller `NotReady` with both sub-resources closed and no line held
that was not; the cleanup's own errors are not reported. A missing SPI device gives no line event. The failed
attempts in the trace are assumption 21's. -/
def Obligations.OpenFailures : Prop :=
  ∀ s : State, s.lockFree = true →
    (s.ctl.phase = .ready → exec .openController s
      = .next (s.rejected .resourceUnavailable .controllerAlreadyOpen)) ∧
    (s.sessionClosed = true → ∀ t e, exec .openController s = .next t →
      t.returns = s.returns ++ [⟨s.caller, .err e⟩] →
      e.kind = .resourceUnavailable ∧ t.sessionClosed = true ∧
        t.ctl.gpio.lines = s.ctl.gpio.lines ∧ t.alone = s.alone ∧
        t.device.regs = s.device.regs) ∧
    (s.sessionClosed = true → s.answer.status = .failed →
      ∃ t, exec .openController s = .next t ∧
        Returned s t [] [(.spiOpen s.cfg.spiDevice 0 8 s.cfg.spiSpeedHz, false)]
          (.err ⟨.resourceUnavailable, .openFailed, []⟩) ∧ SameParts s t ∧ t.device = s.device) ∧
    (s.sessionClosed = true → s.configFree = true → s.answersSucceed 3 = true →
      (s.answerAt 3).status = .failed → (∀ k, 4 ≤ k → k < 7 → (s.answerAt k).status = .ok) →
      ∃ t, exec .openController s = .next t ∧
        Returned s t [] (s.openEvents.take 4 ++ [(.lineRequest s.cfg.txrxLine, false),
          (.lineRelease s.cfg.resetLine, true), (.chipRelease, true), (.spiRelease, true)])
          (.err ⟨.resourceUnavailable, .openFailed, []⟩))

/-- R183, R184: `close` releases the sequencer, then the transport, whatever fails, and aggregates even one error
into a composite; on a `NotReady` controller it is refused. R257: no register changes (assumption 19). R146,
R248: the wired reset line is at the level the platform leaves it at; while that is high every transfer is a
hazard, and where it was high before and is not, it fell. -/
def Obligations.CloseOutcomes : Prop :=
  ∀ s : State, s.lockFree = true →
    (s.ctl.phase = .notReady →
      exec .closeController s = .next (s.rejected .notInitialized .notReady)) ∧
    (s.inSession = true → (∀ k < 4, (s.answerAt k).status ≠ .stalled) →
      ∃ t, exec .closeController s = .next t ∧
        Returned s t []
          [(.lineRelease s.ctl.gpio.txrxLine, (s.answerAt 0).status == .ok),
           (.lineRelease s.ctl.gpio.resetLine, (s.answerAt 1).status == .ok),
           (.chipRelease, (s.answerAt 2).status == .ok), (.spiRelease, (s.answerAt 3).status == .ok)]
          (match (List.range 4).countP fun k => (s.answerAt k).status == .failed with
            | 0 => .ok .unit
            | n => .err ⟨.compositeCloseError, .closeErrors, List.replicate n .transportFailure⟩) ∧
        t.sessionClosed = true ∧ t.alone = s.alone ∧ t.device.regs = s.device.regs ∧
        t.lastEnd = s.lastEnd ∧
        (s.ctl.gpio.isWired s.cfg = true →
          t.device.resetPin = (s.answerAt 1).level ∧
          (t.device.resetPin = true → ∀ n, t.device.hazard n = true) ∧
          (s.device.resetPin = true → t.device.resetPin = false →
            ∃ f, t.device.fell = some f ∧ s.now ≤ f ∧ f ≤ t.now)))

/-- R185, R216: every controller operation other than `open` finds a controller that is not `Ready` before it
checks anything else, and emits nothing. -/
def Obligations.NotReadyRejected : Prop :=
  ∀ (i : Instr) (s : State), s.lockFree = true → i.isController = true → i ≠ .openController →
    s.ctl.phase = .notReady → legalFxosc s.cfg.fxosc = true →
    exec i s = .next (s.rejected .notInitialized .notReady)

/-- R186: the phase machine, for every operation that goes on. -/
def Obligations.PhaseMachine : Prop :=
  ∀ (i : Instr) (s t : State), exec i s = .next t →
    (i ≠ .openController → i ≠ .closeController → t.ctl.phase = s.ctl.phase) ∧
    (i = .openController → s.ctl.phase = .ready → t.ctl.phase = .ready) ∧
    (i = .openController → s.ctl.phase = .notReady →
      (t.ctl.phase = .ready ↔ t.returns = s.returns ++ [⟨s.caller, .ok .unit⟩])) ∧
    (i = .closeController → s.ctl.phase = .notReady → t.ctl.phase = .notReady) ∧
    (i = .closeController → t.returns ≠ s.returns → t.ctl.phase = .notReady)

/-- R188 and R107: `setMode` writes the whole byte it is given, named or not, and each of the six
pseudo-operations its named value. -/
def Obligations.SetModeCompletes : Prop :=
  ∀ (s : State) (i : Instr) (m : Byte), s.lockFree = true → s.inSession = true →
    s.answersOk [2] = true →
    (i, m) ∈ [(Instr.setMode m, m), (.setModeSleep, 0x00), (.setModeStandby, 0x01), (.setModeRx, 0x03),
      (.setModeTx, 0x05), (.setModeTxFull, 0x0D), (.setModeFullDuplex, 0x0F)] →
    ∃ t, exec i s = .next t ∧ Returned s t [[0x80, m]] [] (.ok .unit) ∧ WroteRegs s t [(0x00, m)]

/-- R189, R198, R199, R201: the single-read operations of the controller, each returning what the byte read
decodes to. What a read gives under `DEVICE_COHERENT`, and in a hazard, is assumption 16's (R40, R248). -/
def Obligations.ReadingOperationsComplete : Prop :=
  ∀ (s : State), s.lockFree = true → s.inSession = true → s.answersOk [2] = true →
    ∀ (i : Instr) (a : Nat) (value : Byte → Value),
      (i = .getMode ∧ a = 0x00 ∧ value = .byte) ∨ (i = .probe ∧ a = 0x07 ∧ value = .byte) ∨
      (i = .getStatus ∧ a = 0x11 ∧ value = fun b => .status (decodeStatus b)) ∨
      (i = .getVersion ∧ a = 0x07 ∧ value = fun b => .version (decodeVersion b)) →
      ∃ t, exec i s = .next t ∧
        Returned s t [[BitVec.ofNat 8 a, 0x00]] [] (.ok (value (s.byteRead 0 1 a))) ∧ ReadRegs s t

/-- R206: `initializeWithDefaults` writes the entries of `DEFAULT_TABLE`, each as one single write frame, in
table order. -/
def Obligations.DefaultsComplete : Prop :=
  ∀ s : State, s.lockFree = true → s.inSession = true →
    (∀ e ∈ s.cfg.defaultTable, e.1 ≤ 0x13) → s.cfg.defaultTable ≠ [] →
    s.answersOk (s.cfg.defaultTable.map fun _ => 2) = true →
    ∃ t, exec .initializeWithDefaults s = .next t ∧
      Returned s t (s.cfg.defaultTable.map fun e => [BitVec.ofNat 8 e.1 ||| 0x80, e.2]) [] (.ok .unit) ∧
      WroteRegs s t s.cfg.defaultTable

/-- R208, R209, R252: the scoped lifecycle, for every controller operation. `scoped(op)` does what `open`, the
operation and `close` do one after the other, as one call with one return: the operation's own result where
both succeed, the one error where one fails, and a composite with the operation's members first where both do.
An `open` that does not succeed is the whole call, and a call that stalls stays stuck. Two instances of it: a
switch level set in one scoped operation does not carry into the next, while the registers do, and an invalid
frequency is closed after. -/
def Obligations.ScopedLifecycle : Prop :=
  (∀ (i : Instr) (s s₁ : State), i.isController = true → exec .openController s = .next s₁ →
    (s₁.returns ≠ s.returns ++ [⟨s.caller, .ok .unit⟩] → execScoped i s = .next s₁) ∧
    (s₁.returns = s.returns ++ [⟨s.caller, .ok .unit⟩] → ∀ s₂, exec i s₁ = .next s₂ →
      (s₂.returns = s₁.returns → execScoped i s = .next { s₂ with returns := s.returns }) ∧
      ∀ r, s₂.returns = s₁.returns ++ [⟨s.caller, r⟩] → ∀ s₃, exec .closeController s₂ = .next s₃ →
        (s₃.returns = s₂.returns → execScoped i s = .next { s₃ with returns := s.returns }) ∧
        ∀ c, s₃.returns = s₂.returns ++ [⟨s.caller, c⟩] →
          execScoped i s = .next { s₃ with returns := s.returns ++ [⟨s.caller,
            match r, c with
            | .ok v, .ok _ => .ok v
            | .err e, .ok _ => .err e
            | .ok _, .err e => .err e
            | .err e, .err e' => .err ⟨.compositeCloseError, .closeErrors,
                (if e.kind = .compositeCloseError then e.members else [e.kind])
                  ++ (if e'.kind = .compositeCloseError then e'.members else [e'.kind])⟩⟩] })) ∧
  ∀ (s : State) (on : Bool) (f : Nat), s.lockFree = true → s.sessionClosed = true →
    s.configFree = true → legalFxosc s.cfg.fxosc = true →
    (s.answersSucceed 18 = true →
      ∃ t u, execScoped (.setTxRxSwitch on) s = .next t ∧ execScoped .getTxRxSwitch t = .next u ∧
        Returned s t [] (s.openEvents ++ [(.lineSet s.cfg.txrxLine on, true)] ++ s.closeEvents)
          (.ok .unit) ∧
        Returned t u [] (s.openEvents ++ s.closeEvents) (.ok (.level false)) ∧
        u.sessionClosed = true ∧ u.device.regs = s.device.regs) ∧
    (s.answersSucceed 8 = true → f < 400000000 ∨ 510000000 < f →
      ∃ t, execScoped (.setRxFrequency f) s = .next t ∧
        Returned s t [] (s.openEvents ++ s.closeEvents)
          (.err ⟨.invalidArgument, .frequencyOutsideRange, []⟩) ∧ t.sessionClosed = true)

/-! ### The lock, the step and the order of events -/

/-- R80, R224, R226: an operation that goes on found the lock free. It returned and released the lock, or it is
stuck and keeps it, and then every operation waits forever. That the stuck call gives a next state is assumption
7's, and that the waiting is a fault is assumption 8's. -/
def Obligations.LockDiscipline : Prop :=
  ∀ (i : Instr) (s : State), s.cfg.serialized = true →
    (s.owner ≠ none → exec i s = .fault .waitsForLock) ∧
    ∀ t, exec i s = .next t →
      s.owner = none ∧
      ((t.owner = none ∧ ∃ r, t.returns = s.returns ++ [⟨s.caller, r⟩]) ∨
        (t.owner = some s.caller ∧ t.returns = s.returns ∧ ∀ j, exec j t = .fault .waitsForLock))

/-- R3, R80: with `SERIALIZED = true`, where the next request's call, frames or line of text give an operation
that a caller can present, the step is `exec` of it, in the state where the request's caller and instance are
the current ones and the request no longer waits; a scoped call is `execScoped`. How a call reaches the block is
the model's (assumption 1). -/
def Obligations.StepRunsTheDecodedOperation : Prop :=
  ∀ (s : State) (n : Nat) (r : Request) (i : Instr), s.cfg.serialized = true →
    s.nextRequest = some (n, r) → i.wellFormed = true →
    (r.source = .call (.op i) ∨
      (∃ fs, r.source = .frames fs ∧ decodeFrames s.cfg.fxosc s.cfg.defaultTable fs = .ok i) ∨
      (∃ line, r.source = .text line ∧ decodeCall line = .ok (.op i)) →
      step s = exec i (s.startCall n r)) ∧
    (r.source = .call (.scoped i) ∨ (∃ line, r.source = .text line ∧ decodeCall line = .ok (.scoped i)) →
      i.isController = true → step s = execScoped i (s.startCall n r)) ∧
    (s.startCall n r).caller = r.caller ∧ (s.startCall n r).ctlId = r.target ∧
    (s.startCall n r).requests = s.requests.eraseIdx n ∧ (s.startCall n r).cfg = s.cfg ∧
    (s.startCall n r).device = s.device ∧ (s.startCall n r).trace = s.trace ∧
    (s.startCall n r).now = s.now ∧ (s.startCall n r).lastEnd = s.lastEnd ∧
    (s.startCall n r).owner = s.owner ∧ (s.startCall n r).inputs = s.inputs ∧
    (r.target = s.ctlId → SameParts s (s.startCall n r) ∧ (s.startCall n r).parked = s.parked)

/-- R83(a), R163: with `SERIALIZED = true`, the events of one step are one caller's, and the step returns to that
caller alone or to none. -/
def Obligations.StepEventsAreOneCallers : Prop :=
  ∀ s t : State, s.cfg.serialized = true → step s = .next t →
    ∃ c new, t.trace = s.trace ++ new ∧ (∀ e ∈ new, e.caller = c) ∧
      (t.returns = s.returns ∨ ∃ r, t.returns = s.returns ++ [⟨c, r⟩])

/-- R81, R82, R249: with `SERIALIZED = false`, one turn of one call a step: a primitive, or the whole open or close of a
controller, a transport or a sequencer, which nothing comes between (assumption 9). A lone call ends as its uninterrupted run does: the
steps cut the call, and change nothing else. Any call may be the next, if it is not stuck and none of its own
caller's stands before it, and the step is then that call's next turn, or its return. So two callers' setters of one register can lose the first one's field, in one order of their
transfers, and keep both in another. -/
def Obligations.UnserializedCalls : Prop :=
  (∀ (s : State) (r : Request) (c : Call) (res : Result) (u : State), s.cfg.serialized = false →
    s.requests = [r] → r.turns = [] → r.stalled = false → fetchCall s.cfg r.source = .ok c →
    (programOfCall s.cfg c).run ((s.select r).view c.usedAlone) = .done res u →
    ∃ k t, runSteps k s = .next t ∧ t.returns = s.returns ++ [⟨r.caller, res⟩] ∧ t.trace = u.trace ∧
      SameParts (u.view c.usedAlone) t ∧ t.device = u.device ∧ t.lastEnd = u.lastEnd ∧ t.now = u.now ∧
      t.requests = []) ∧
  (∀ (s : State) (n : Nat) (r : Request), s.requests[n]? = some r → r.stalled = false →
    (∀ r' ∈ s.requests.take n, r'.caller ≠ r.caller) →
    ∃ k, ∀ ks, ({ s with schedule := k :: ks } : State).nextRequest = some (n, r)) ∧
  (∀ (s : State) (n : Nat) (r : Request) (c : Call), s.cfg.serialized = false →
    s.nextRequest = some (n, r) → fetchCall s.cfg r.source = .ok c →
    (∀ res, (programOfCall s.cfg c).resume r.turns = .done res →
      step s = .next ((s.startCall n r).deliver res)) ∧
    (∀ p k, (programOfCall s.cfg c).resume r.turns = .act p k → ∀ reply u,
      p.perform ((s.select r).view c.usedAlone) = .replied reply u →
      step s = .next { u.view c.usedAlone with
        requests := s.requests.set n { r with turns := r.turns ++ [.reply reply] } }) ∧
    ∀ q k, (programOfCall s.cfg c).resume r.turns = .whole q k → ∀ res u,
      q.run ((s.select r).view c.usedAlone) = .done res u →
      step s = .next { u.view c.usedAlone with
        requests := s.requests.set n { r with turns := r.turns ++ [.result res] } }) ∧
  ∀ (s : State) (c c' : Nat) (g g' : Rat) (r : Byte), s.cfg.serialized = false →
    s.cfg.deviceCoherent = true → s.inSession = true → s.hazardNext = false → c ≠ c' →
    s.answersOk [2, 2, 2, 2] = true → Memory.read 0x0C s.device.regs = some r →
    s.requests = [⟨c, s.ctlId, .call (.op (.setLnaGain g)), [], false⟩,
      ⟨c', s.ctlId, .call (.op (.setPgaGain g')), [], false⟩] →
    (∃ ks t, runSteps 16 { s with schedule := ks } = .next t ∧ t.requests = [] ∧
      Memory.read 0x0C t.device.regs = some ((r &&& 0xE1) ||| BitVec.ofNat 8 (encodePga g' * 2))) ∧
    ∃ ks t, runSteps 16 { s with schedule := ks } = .next t ∧ t.requests = [] ∧
      Memory.read 0x0C t.device.regs = some ((r &&& 0x01) ||| BitVec.ofNat 8 (encodeLna g * 2 ^ 5)
        ||| BitVec.ofNat 8 (encodePga g' * 2))

/-! ### Invariants of the step -/

/-- R245: any two transfers on the bus keep 10 µs between the end of the one and the start of the other, across
operations, callers and instances. -/
def Obligations.StepKeepsGaps : Prop :=
  ∀ s t : State, s.gapsKept = true → step s = .next t → t.gapsKept = true

/-- R97, R111: no step sends a reserved address byte, a burst past 0x13, or a read frame with a data byte that is
not 0x00. -/
def Obligations.StepKeepsFramesLegal : Prop :=
  ∀ s t : State, s.framesLegal = true → step s = .next t → t.framesLegal = true

/-- R219: no step returns a composite without members or with a composite among them, and no other error has
members; nor has the `open` or `close` of a call in progress ended in one. -/
def Obligations.StepKeepsErrorsWellFormed : Prop :=
  ∀ s t : State, s.errorsWf = true → step s = .next t → t.errorsWf = true

/-- R69, R32: every step keeps the register record in its canonical form, and the configuration as it is. -/
def Obligations.StepKeepsMemoryForm : Prop :=
  ∀ s t : State, step s = .next t →
    t.cfg = s.cfg ∧ (s.memoryWf = true → t.memoryWf = true)

/-- R64, R212, R220: an operation that returns leaves its controller `Ready` with both sub-resources open, or
`NotReady` with both closed, where it found it so. Every step does so for every controller that no call is stuck
in the middle of, under the lock and in every interleaving (assumption 9 for `open` and `close` there), `scoped`
calls included. A controller operation leaves the components used alone as they are, an operation used alone
leaves the controller as it is, and neither touches another instance. No controller operation returns
`InvalidState`, in whatever state it runs and whatever turns it has had, and no step returns one from a controller
call. That the components used alone are not the controller's is assumption 11's, and what a controller operation
returns where another caller closed the controller under it is assumption 32's. -/
def Obligations.SessionStaysWhole : Prop :=
  (∀ (i : Instr) (s t : State), exec i s = .next t →
    (s.sessionWhole = true → t.returns ≠ s.returns → t.sessionWhole = true) ∧
    (if i.isController then t.alone = s.alone else t.ctl = s.ctl) ∧ t.parked = s.parked ∧
    (i.isController = true → ∀ e,
      t.returns = s.returns ++ [⟨s.caller, .err e⟩] → e.kind ≠ .invalidState)) ∧
  (∀ (cfg : Config) (c : Call) (i : Instr) (ts : List Turn) (e : Error),
    c = .op i ∨ c = .scoped i → i.isController = true → (∀ t ∈ ts, t.isReady = true) →
    (programOfCall cfg c).resume ts = .done (.err e) →
    e.kind ≠ .invalidState ∧ ErrorKind.invalidState ∉ e.members) ∧
  ∀ s t : State, step s = .next t →
    (s.sessionsWhole = true → t.sessionsWhole = true) ∧
    (s.turnsReady = true → t.turnsReady = true ∧
      ∀ (n : Nat) (r : Request) (i : Instr) (e : Error), s.nextRequest = some (n, r) →
        fetchCall s.cfg r.source = .ok (.op i) ∨ fetchCall s.cfg r.source = .ok (.scoped i) →
        i.isController = true → t.returns = s.returns ++ [⟨r.caller, .err e⟩] →
        e.kind ≠ .invalidState ∧ ErrorKind.invalidState ∉ e.members)

/-- R26, R28 to R30, R225: under the lock and in every interleaving, a step leaves every open transport and sequencer
with its handles, where it found them so and no call is stuck in the middle of one; and the levels `gpio.reset` and
`gpio.txrx` of an open sequencer are the ones last driven on its two lines, low after an open. A step touches only the
components of its call. That an open or close of components used alone is one turn, as a line write with its field
is, is assumption 9's, and that components used alone are not the controller's is assumption 11's. -/
def Obligations.StepKeepsHandles : Prop :=
  (∀ s t : State, s.handlesHeld = true → step s = .next t → t.handlesHeld = true) ∧
  ∀ (s t : State) (n : Nat) (r : Request) (c : Call), step s = .next t → s.nextRequest = some (n, r) →
    fetchCall s.cfg r.source = .ok c →
    (t.view c.usedAlone).alone = ((s.select r).view c.usedAlone).alone ∧ t.parked = (s.select r).parked ∧
    ∃ new, t.trace = s.trace ++ new ∧
      ∀ g g' : Gpio, g = ((s.select r).view c.usedAlone).ctl.gpio → g' = (t.view c.usedAlone).ctl.gpio →
        g'.isOpen = true → g'.resetLine ≠ g'.txrxLine →
        g'.reset = lastDriven new g'.resetLine (g.isOpen && g.reset) ∧
        g'.txrx = lastDriven new g'.txrxLine (g.isOpen && g.txrx)

/-- The invariants hold right after block reset, where the trace is empty and nothing is open. -/
def Obligations.InvariantsHoldAtReset : Prop :=
  State.reset.gapsKept = true ∧ State.reset.framesLegal = true ∧ State.reset.errorsWf = true ∧
  State.reset.memoryWf = true ∧ State.reset.sessionWhole = true ∧ State.reset.sessionsWhole = true ∧
  State.reset.turnsReady = true ∧ State.reset.handlesHeld = true ∧ State.reset.lockFree = true

/-- R237, R68, with R8 and R205 for the configuration: the state after block reset, as far as the spec gives it.
Every device register is unknown, and the configuration is one that R8 allows: whatever the open parameters
are, `SPI_SPEED_HZ` is above zero, and `DEFAULT_TABLE` holds 17 entries, the six of 434 MHz among them and none for
STAT (R58). -/
def Obligations.ResetState : Prop :=
  State.reset.ctl.phase = .notReady ∧ State.reset.ctl.spi.isOpen = false ∧
  State.reset.lastEnd = none ∧ State.reset.ctl.gpio.isOpen = false ∧ State.reset.owner = none ∧
  State.reset.alone.spi.isOpen = false ∧ State.reset.alone.gpio.isOpen = false ∧
  (∀ a, Memory.read a State.reset.device.regs = none) ∧
  State.reset.cfg.fxosc = 32000000 ∧ State.reset.cfg.serialized = true ∧
  State.reset.cfg.deviceCoherent = false ∧ State.reset.cfg.legal = true ∧
  State.reset.cfg.defaultTable.length = 17 ∧ (∀ e ∈ State.reset.cfg.defaultTable, e.1 ≠ 0x11) ∧
  ∀ e ∈ [((0x01, 0xD9) : Host.Cell), (0x02, 0x00), (0x03, 0x00), (0x04, 0xD9), (0x05, 0x00), (0x06, 0x00)],
    e ∈ State.reset.cfg.defaultTable

end
end

