-- ==== Sys2Proof/Laws/Calls.lean ====
section
/-! SUPPORT. A whole call, from the run of its program: what it returns, what it leaves alone, and that host time
never goes back. -/

namespace Sys2Proof.Machine

/-! ### Host time -/

/-- Host time does not go back in a primitive. -/
theorem perform_now_le (p : Prim) (s : State) : s.now ≤ (p.perform s).state.now := by
  have key : ∀ (possible : Bool) (ev : Event) (f g h : State → State),
      (∀ u, u.now ≤ (f u).now) → (∀ u, u.now ≤ (g u).now) → (∀ u, u.now ≤ (h u).now) →
      s.now ≤ (attempt possible ev f g h s).state.now := by
    intro possible ev f g h hf hg hh
    rcases attempt_cases possible ev f g h s with ⟨_, e⟩ | ⟨_, t, rfl, e⟩ | ⟨_, _, t, rfl, e⟩ <;>
      rw [e] <;> simp only [Performed.state]
    · exact le_trans (Nat.le_add_right _ _) (hh { s.consume with now := s.now + s.answer.before })
    · refine le_trans ?_ (hg _); simp only [State.emit_now]; omega
    · refine le_trans ?_ (hf _); simp only [State.emit_now]; omega
  have hs := s.le_nextStart.1
  cases p with
  | look => exact le_rfl
  | assign w => exact le_rfl
  | gap _ => simp [Prim.perform]; omega
  | hold _ _ => simp [Prim.perform]; omega
  | xfer tx =>
    rcases exchange_cases tx s with ⟨_, e⟩ | ⟨_, e⟩ | ⟨_, rx, _, e⟩ <;>
      simp only [Prim.perform, e, Performed.state, State.emit_now] <;> omega
  | lineGet _ =>
    simp only [Prim.perform]
    rcases getLine_cases s with e | ⟨_, e⟩ <;> simp only [e, Performed.state] <;> omega
  | lineSet pin b =>
    simp only [Prim.perform, setLine]
    exact key _ _ _ _ _ (by simp) (by simp) (by simp)
  | spiOpen => simp only [Prim.perform]; exact key _ _ _ _ _ (by simp) (by simp) (by simp)
  | spiRelease => simp only [Prim.perform]; exact key _ _ _ _ _ (by simp) (by simp) (by simp)
  | chipOpen c => simp only [Prim.perform]; exact key _ _ _ _ _ (by simp) (by simp) (by simp)
  | lineRequest l =>
    simp only [Prim.perform]
    exact key _ _ _ _ _ (by simp) (by simp) (fun u => by split <;> simp)
  | lineRelease l => simp only [Prim.perform]; exact key _ _ _ _ _ (by simp) (by simp) (by simp)
  | chipRelease => simp only [Prim.perform]; exact key _ _ _ _ _ (by simp) (by simp) (by simp)

/-- Host time does not go back in a run. -/
theorem Prog.run_now_le {q : Prog} {s t : State} (ht : (q.run s).state? = some t) : s.now ≤ t.now :=
  run_keeps (P := fun u => s.now ≤ u.now) (fun p u _ h => h.trans (perform_now_le p u)) q.acts_any
    le_rfl ht

/-! ### Whole calls -/

/-- A whole call whose program's run ends. -/
theorem runCall_of_run {q : Prog} {s t : State} {r : Result} (h : s.lockFree = true)
    (hq : q.run s.takeLock = .done r t) : runCall q s = .next (t.releaseLock.deliver r) := by
  rcases runCall_cases q s with ⟨h1, h2, _⟩ | ⟨_, ⟨r', t', e, e'⟩ | ⟨t', e, _⟩ | ⟨r', e, _⟩⟩
  · simp only [State.lockFree, h1, Bool.not_true, Bool.false_or] at h
    cases ho : s.owner <;> simp_all
  · rw [hq] at e
    injection e with e1 e2
    subst e1; subst e2
    exact e'
  · rw [hq] at e; cases e
  · rw [hq] at e; cases e

/-- A whole call whose program's run stalls. -/
theorem runCall_of_stall {q : Prog} {s t : State} (h : s.lockFree = true)
    (hq : q.run s.takeLock = .stalled t) : runCall q s = .next t := by
  rcases runCall_cases q s with ⟨h1, h2, _⟩ | ⟨_, ⟨r', t', e, e'⟩ | ⟨t', e, e'⟩ | ⟨r', e, _⟩⟩
  · simp only [State.lockFree, h1, Bool.not_true, Bool.false_or] at h
    cases ho : s.owner <;> simp_all
  · rw [hq] at e; cases e
  · rw [hq] at e; injection e with e; subst e; exact e'
  · rw [hq] at e; cases e

/-- A call refused by its program. -/
theorem runCall_of_refuse {q : Prog} {s : State} {e : Refusal} (h : s.lockFree = true)
    (hq : q.run s.takeLock = .refused e) : runCall q s = .refused e := by
  rcases runCall_cases q s with ⟨h1, h2, _⟩ | ⟨_, ⟨r', t', e, e'⟩ | ⟨t', e, e'⟩ | ⟨r', e, e'⟩⟩
  · simp only [State.lockFree, h1, Bool.not_true, Bool.false_or] at h
    cases ho : s.owner <;> simp_all
  · rw [hq] at e; cases e
  · rw [hq] at e; cases e
  · rw [hq] at e; injection e with e; subst e; exact e'

/-- What a call leaves alone, from its program's run. -/
theorem returned_of_run {q : Prog} {s t : State} {r : Result} {fs : List Frame}
    {side : List (Event × Bool)} (h : s.lockFree = true) (hq : q.run s.takeLock = .done r t)
    (hf : t.frames = s.frames ++ fs) (hs : t.sideEvents = s.sideEvents ++ side) :
    Returned s (t.releaseLock.deliver r) fs side r := by
  have ht : (q.run s.takeLock).state? = some t := by rw [hq]; rfl
  have k := Prog.run_sameFrame ht
  have hn := Prog.run_now_le ht
  have hc : t.cfg = s.cfg := k.cfg.trans (by simp)
  refine ⟨?_, ?_, ?_, ?_, ?_, ?_, ?_, ?_, ?_, ?_, ?_, ?_⟩
  · simp [k.returns, k.caller]
  · simpa using hf
  · simpa using hs
  · simpa using hn
  · have ho := k.owner
    simp only [State.lockFree] at h
    cases hz : s.cfg.serialized
    · simp_all [State.releaseLock, State.takeLock, State.deliver]
    · simp_all [State.releaseLock, State.deliver]
  · simpa using k.cfg
  · simpa using k.ctlId
  · simpa using k.parked
  · simpa using k.caller
  · simpa using k.requests
  · simpa using k.schedule
  · simpa using k.picked

/-! ### Whole calls of components used alone (R66, R67) -/

/-- A whole call used alone whose program's run ends. -/
theorem runAlone_of_run {q : Prog} {s t : State} {r : Result} (h : s.lockFree = true)
    (hq : q.run s.swapParts.takeLock = .done r t) :
    runAlone q s = .next (t.releaseLock.deliver r).swapParts :=
  runAlone_next.mpr (runCall_of_run (s := s.swapParts) h hq)

/-- A whole call used alone whose program's run stalls. -/
theorem runAlone_of_stall {q : Prog} {s t : State} (h : s.lockFree = true)
    (hq : q.run s.swapParts.takeLock = .stalled t) : runAlone q s = .next t.swapParts :=
  runAlone_next.mpr (runCall_of_stall (s := s.swapParts) h hq)

/-- What a call used alone leaves alone, from its program's run. -/
theorem returned_of_runAlone {q : Prog} {s t : State} {r : Result} {fs : List Frame}
    {side : List (Event × Bool)} (h : s.lockFree = true) (hq : q.run s.swapParts.takeLock = .done r t)
    (hf : t.frames = s.frames ++ fs) (hs : t.sideEvents = s.sideEvents ++ side) :
    Returned s (t.releaseLock.deliver r).swapParts fs side r := by
  obtain ⟨h1, h2, h3, h4, h5, h6, h7, h8, h9, h10, h11, h12⟩ :=
    returned_of_run (s := s.swapParts) h hq hf hs
  exact ⟨h1, h2, h3, h4, h5, h6, h7, h8, h9, h10, h11, h12⟩

end Sys2Proof.Machine
end

