-- ==== Sys2Proof/Laws/PerInstr.lean ====
section
/-! SUPPORT. The per-instruction family of LAWS.json: every frame of an operation's pattern is one the block may
send (R89, R97, R111), for operands that pass the operation's checks and a `DEFAULT_TABLE` in range. -/

namespace Sys2Proof

/-- The address byte of an address in range reads back as the direction and the address. -/
theorem addressByte_parts {a : Nat} (w : Bool) (h : a ≤ lastAddr) :
    isWrite (addressByte w a) = w ∧ frameAddr (addressByte w a) = a := by
  have key : ∀ a ≤ 0x13, ∀ w, isWrite (addressByte w a) = w ∧ frameAddr (addressByte w a) = a := by
    decide
  exact key a h w

theorem inRange_iff {a n : Nat} : inRange a n = true ↔ a ≤ 0x13 ∧ a + n - 1 ≤ 0x13 := by
  rw [inRange, Bool.and_eq_true, decide_eq_true_iff, decide_eq_true_iff, lastAddr]

theorem legalFrame_write {a : Nat} (v : Byte) (h : a ≤ lastAddr) : legalFrame (writeFrame a v) = true := by
  obtain ⟨h1, h2⟩ := addressByte_parts true h
  simp only [legalFrame, writeFrame, h1, h2, List.length_nil, Bool.true_or, Bool.and_true]
  exact inRange_iff.2 ⟨h, h⟩

theorem legalFrame_read {a : Nat} (h : a ≤ lastAddr) : legalFrame (readFrame a) = true := by
  obtain ⟨h1, h2⟩ := addressByte_parts false h
  simp only [legalFrame, readFrame, h1, h2, List.length_nil]
  simpa using inRange_iff.2 ⟨h, h⟩

theorem legalFrame_burstWrite {a : Nat} {vs : List Byte} (hv : vs ≠ []) (h : inRange a vs.length = true) :
    legalFrame (burstWriteFrame a vs) = true := by
  obtain ⟨h1, h2⟩ := addressByte_parts true (inRange_iff.1 h).1
  cases vs with
  | nil => exact absurd rfl hv
  | cons v vs => simpa [legalFrame, burstWriteFrame, h1, h2] using h

theorem legalFrame_burstRead {a n : Nat} (hn : 0 < n) (h : inRange a n = true) :
    legalFrame (burstReadFrame a n) = true := by
  obtain ⟨h1, h2⟩ := addressByte_parts false (inRange_iff.1 h).1
  cases n with
  | zero => omega
  | succ n => simpa [legalFrame, burstReadFrame, h1, h2, List.replicate_succ] using h

namespace Laws.LegalFrames

/-- Every frame of the operation's pattern may be sent. -/
def Statement (i : Instr) : Prop :=
  ∀ (fxosc : Nat) (table : List Host.Cell) (r : Byte), Machine.operandsOk i = true →
    (∀ e ∈ table, e.1 ≤ lastAddr) → ∀ f ∈ framesOf fxosc table r i, legalFrame f = true

theorem of_none {i : Instr} (h : ∀ fxosc table r, framesOf fxosc table r i = []) : Statement i := by
  intro fxosc table r _ _ f hf
  simp [h] at hf

theorem of_one {i : Instr} {f : Frame} (h : ∀ fxosc table r, framesOf fxosc table r i = [f])
    (hf : Machine.operandsOk i = true → legalFrame f = true) : Statement i := by
  intro fxosc table r ho _ f' hf'
  rw [h, List.mem_singleton] at hf'
  exact hf' ▸ hf ho

theorem of_rmw {i : Instr} {a : Reg} (u : Byte → Byte)
    (h : ∀ fxosc table r, framesOf fxosc table r i = rmwFrames a (u r)) : Statement i := by
  intro fxosc table r _ _ f hf
  have ha : a.addr ≤ lastAddr := by cases a <;> decide
  simp only [h, rmwFrames, List.mem_cons, List.not_mem_nil, or_false] at hf
  rcases hf with rfl | rfl
  · exact legalFrame_read ha
  · exact legalFrame_write _ ha

theorem of_word {i : Instr} {a : Reg} (w : Nat → Nat) (ha : a.addr + 2 ≤ lastAddr)
    (h : ∀ fxosc table r, framesOf fxosc table r i = wordFrames a (w fxosc)) : Statement i := by
  intro fxosc table r _ _ f hf
  simp only [h, wordFrames, List.mem_cons, List.not_mem_nil, or_false] at hf
  rcases hf with rfl | rfl | rfl <;> exact legalFrame_write _ (by omega)

theorem of_reads {i : Instr} {a : Reg} (ha : a.addr + 2 ≤ lastAddr)
    (h : ∀ fxosc table r, framesOf fxosc table r i = wordReads a) : Statement i := by
  intro fxosc table r _ _ f hf
  simp only [h, wordReads, List.mem_cons, List.not_mem_nil, or_false] at hf
  rcases hf with rfl | rfl | rfl <;> exact legalFrame_read (by omega)

theorem spiOpen : Statement .spiOpen := of_none fun _ _ _ => rfl
theorem spiClose : Statement .spiClose := of_none fun _ _ _ => rfl
theorem writeRegister (a : Nat) (v : Byte) : Statement (.writeRegister a v) :=
  of_one (fun _ _ _ => rfl) fun h => legalFrame_write v (by simpa [Machine.operandsOk] using h)
theorem readRegister (a : Nat) : Statement (.readRegister a) :=
  of_one (fun _ _ _ => rfl) fun h => legalFrame_read (by simpa [Machine.operandsOk] using h)
theorem burstWrite (s : Nat) (vs : List Byte) : Statement (.burstWrite s vs) :=
  of_one (fun _ _ _ => rfl) fun h => by
  simp only [Machine.operandsOk, Bool.and_eq_true, Bool.not_eq_true', List.isEmpty_eq_false_iff] at h
  exact legalFrame_burstWrite h.1 h.2
theorem burstRead (s : Nat) (n : Int) : Statement (.burstRead s n) := of_one (fun _ _ _ => rfl) fun h => by
  simp only [Machine.operandsOk, Bool.and_eq_true, decide_eq_true_eq] at h
  exact legalFrame_burstRead (by omega) h.2
theorem checkDevice : Statement .checkDevice := of_one (fun _ _ _ => rfl) fun _ => by decide
theorem gpioOpen (c : Path) (x : Nat) (y : Nat) : Statement (.gpioOpen c x y) := of_none fun _ _ _ => rfl
theorem reset : Statement .reset := of_none fun _ _ _ => rfl
theorem setResetPin (b : Bool) : Statement (.setResetPin b) := of_none fun _ _ _ => rfl
theorem getResetPin : Statement .getResetPin := of_none fun _ _ _ => rfl
theorem setTxRxPin (b : Bool) : Statement (.setTxRxPin b) := of_none fun _ _ _ => rfl
theorem getTxRxPin : Statement .getTxRxPin := of_none fun _ _ _ => rfl
theorem gpioClose : Statement .gpioClose := of_none fun _ _ _ => rfl
theorem setRxFrequency (f : Nat) : Statement (.setRxFrequency f) :=
  of_word (fun fxosc => tuningWord fxosc f) (a := .frfhRx) (by decide) fun _ _ _ => rfl
theorem getRxFrequency : Statement .getRxFrequency := of_reads (a := .frfhRx) (by decide) fun _ _ _ => rfl
theorem setTxFrequency (f : Nat) : Statement (.setTxFrequency f) :=
  of_word (fun fxosc => tuningWord fxosc f) (a := .frfhTx) (by decide) fun _ _ _ => rfl
theorem getTxFrequency : Statement .getTxFrequency := of_reads (a := .frfhTx) (by decide) fun _ _ _ => rfl
theorem setLnaGain (g : Rat) : Statement (.setLnaGain g) := of_rmw (a := .rxfe1) _ fun _ _ _ => rfl
theorem setPgaGain (g : Rat) : Statement (.setPgaGain g) := of_rmw (a := .rxfe1) _ fun _ _ _ => rfl
theorem setDacGain (g : Rat) : Statement (.setDacGain g) := of_rmw (a := .txfe1) _ fun _ _ _ => rfl
theorem setMixerGain (g : Rat) : Statement (.setMixerGain g) := of_rmw (a := .txfe1) _ fun _ _ _ => rfl
theorem openController : Statement .openController := of_none fun _ _ _ => rfl
theorem closeController : Statement .closeController := of_none fun _ _ _ => rfl
theorem setMode (m : Byte) : Statement (.setMode m) :=
  of_one (fun _ _ _ => rfl) fun _ => legalFrame_write m (by decide)
theorem getMode : Statement .getMode := of_one (fun _ _ _ => rfl) fun _ => by decide
theorem enableRx (b : Bool) : Statement (.enableRx b) := of_rmw (a := .mode) _ fun _ _ _ => rfl
theorem enableTx (b : Bool) : Statement (.enableTx b) := of_rmw (a := .mode) _ fun _ _ _ => rfl
theorem enablePA (b : Bool) : Statement (.enablePA b) := of_rmw (a := .mode) _ fun _ _ _ => rfl
theorem getStatus : Statement .getStatus := of_one (fun _ _ _ => rfl) fun _ => by decide
theorem getVersion : Statement .getVersion := of_one (fun _ _ _ => rfl) fun _ => by decide
theorem probe : Statement .probe := of_one (fun _ _ _ => rfl) fun _ => by decide
theorem setTxRxSwitch (b : Bool) : Statement (.setTxRxSwitch b) := of_none fun _ _ _ => rfl
theorem getTxRxSwitch : Statement .getTxRxSwitch := of_none fun _ _ _ => rfl
theorem resetDevice : Statement .resetDevice := of_none fun _ _ _ => rfl
theorem initializeWithDefaults : Statement .initializeWithDefaults := by
  intro fxosc table r _ ht f hf
  simp only [framesOf, List.mem_map] at hf
  obtain ⟨e, he, rfl⟩ := hf
  exact legalFrame_write _ (ht e he)
theorem setModeSleep : Statement .setModeSleep := of_one (fun _ _ _ => rfl) fun _ => by decide
theorem setModeStandby : Statement .setModeStandby := of_one (fun _ _ _ => rfl) fun _ => by decide
theorem setModeRx : Statement .setModeRx := of_one (fun _ _ _ => rfl) fun _ => by decide
theorem setModeTx : Statement .setModeTx := of_one (fun _ _ _ => rfl) fun _ => by decide
theorem setModeTxFull : Statement .setModeTxFull := of_one (fun _ _ _ => rfl) fun _ => by decide
theorem setModeFullDuplex : Statement .setModeFullDuplex := of_one (fun _ _ _ => rfl) fun _ => by decide

end Laws.LegalFrames

end Sys2Proof
end

