-- ==== Sys2Proof/Laws/Shared.lean ====
section
/-! SUPPORT. The runs of the shared steps of 40_transport.md, 41_gpio.md, 43_gain.md and 44_control.md: what each
can do, said once. -/

namespace Sys2Proof.Machine

/-! ### The platform's answers -/

theorem State.answersOk_iff (s : State) (lens : List Nat) : s.answersOk lens = true ↔
    ∀ k n, lens[k]? = some n → (s.answerAt k).status = .ok ∧ (s.answerAt k).rx.length = n := by
  simp only [State.answersOk, List.all_eq_true, List.mem_iff_getElem?, Prod.forall,
    List.getElem?_zipIdx, Bool.and_eq_true, beq_iff_eq]
  constructor
  · intro h k n hk
    exact h n k ⟨k, by simp [hk]⟩
  · rintro h a b ⟨i, hi⟩
    cases hl : lens[i]? <;> simp [hl] at hi
    obtain ⟨rfl, rfl⟩ := hi
    exact h _ _ hl

theorem State.answersSucceed_iff (s : State) (n : Nat) : s.answersSucceed n = true ↔
    ∀ k < n, (s.answerAt k).status = .ok := by simp [State.answersSucceed]

/-! ### A line or resource primitive, as an update of the state -/

namespace State

/-- When the next primitive that asks the platform, other than a transfer, ends. -/
def attemptEnd (s : State) : Nat := s.now + s.answer.before + s.answer.took

/-- The state after a line or resource primitive's event, with the answer used up. -/
def attempted (s : State) (ev : Event) (ok : Bool) : State :=
  s.consume.emit (s.now + s.answer.before) s.attemptEnd ev ok

section
variable (s : State) (ev : Event) (ok : Bool)

@[simp] theorem attempted_cfg : (s.attempted ev ok).cfg = s.cfg := rfl
@[simp] theorem attempted_ctl : (s.attempted ev ok).ctl = s.ctl := rfl
@[simp] theorem attempted_alone : (s.attempted ev ok).alone = s.alone := rfl
@[simp] theorem attempted_parked : (s.attempted ev ok).parked = s.parked := rfl
@[simp] theorem attempted_lastEnd : (s.attempted ev ok).lastEnd = s.lastEnd := rfl
@[simp] theorem attempted_device : (s.attempted ev ok).device = s.device := rfl
@[simp] theorem attempted_now : (s.attempted ev ok).now = s.attemptEnd := rfl
@[simp] theorem attempted_caller : (s.attempted ev ok).caller = s.caller := rfl

@[simp] theorem attempted_answerAt (k : Nat) : (s.attempted ev ok).answerAt k = s.answerAt (k + 1) := by
  rw [← answerAt_consume]
  exact answerAt_congr rfl rfl k

@[simp] theorem attempted_answer : (s.attempted ev ok).answer = s.answerAt 1 := by
  rw [← answerAt_zero, attempted_answerAt]

@[simp] theorem attempted_frames (h : ev.frame? = none) : (s.attempted ev ok).frames = s.frames := by
  simp [attempted, h]

@[simp] theorem attempted_sideEvents (h : ev.isSide = true) :
    (s.attempted ev ok).sideEvents = s.sideEvents ++ [(ev, ok)] := by
  simp [attempted, h]

theorem le_attemptEnd : s.now ≤ s.attemptEnd := by unfold attemptEnd; omega

end

section
variable (s : State) (l : Nat) (f : Device → Device) (b : Bool)

@[simp] theorem wire_answerAt (k : Nat) : (s.wire l f b).answerAt k = s.answerAt k :=
  answerAt_congr (by simp) (by simp) k

@[simp] theorem wire_answer : (s.wire l f b).answer = s.answer := answer_congr (by simp) (by simp)

@[simp] theorem wire_frames : (s.wire l f b).frames = s.frames := frames_congr (by simp)

@[simp] theorem wire_sideEvents : (s.wire l f b).sideEvents = s.sideEvents := sideEvents_congr (by simp)

end

end State

/-- A primitive that succeeds. -/
theorem attempt_ok {ev : Event} {f g h : State → State} {s : State} (ha : s.answer.status = .ok) :
    attempt true ev f g h s
      = .replied ⟨s.answer, (f (s.attempted ev true)).ctl⟩ (f (s.attempted ev true)) := by
  rcases attempt_cases true ev f g h s with ⟨e, _⟩ | ⟨e, _⟩ | ⟨_, _, t, rfl, e⟩
  · simp [ha] at e
  · simp [ha] at e
  · exact e

/-- A primitive that the platform reports failed, or that it cannot grant. -/
theorem attempt_failed {possible : Bool} {ev : Event} {f g h : State → State} {s : State}
    (ha : s.answer.status = .failed ∨ s.answer.status = .ok ∧ possible = false) :
    attempt possible ev f g h s
      = .replied ⟨{ s.answer with status := .failed }, (g (s.attempted ev false)).ctl⟩
          (g (s.attempted ev false)) := by
  rcases attempt_cases possible ev f g h s with ⟨e, _⟩ | ⟨_, t, rfl, e⟩ | ⟨e, e', _⟩
  · rcases ha with ha | ⟨ha, _⟩ <;> simp [ha] at e
  · exact e
  · rcases ha with ha | ⟨_, ha⟩ <;> simp_all

/-- A primitive that stalls. -/
theorem attempt_stalled {possible : Bool} {ev : Event} {f g h : State → State} {s : State}
    (ha : s.answer.status = .stalled) :
    attempt possible ev f g h s
      = .stalled (h { s.consume with now := s.now + s.answer.before }) := by
  rcases attempt_cases possible ev f g h s with ⟨_, e⟩ | ⟨e | ⟨e, _⟩, _⟩ | ⟨e, _⟩
  · exact e
  · simp [ha] at e
  · simp [ha] at e
  · simp [ha] at e

namespace Prog

/-! ### Lines -/

/-- A line write that goes through (R135, R136, R138). -/
theorem run_driveLine {s : State} {pin : Pin} {b : Bool} (next : Nat → Prog) (ho : s.ctl.gpio.isOpen = true)
    (h : s.answer.status = .ok) :
    (driveLine pin b next).run s = (next s.answer.after).run
      { (s.attempted (.lineSet (s.ctl.gpio.line pin) b) true).moveLine (s.ctl.gpio.line pin) b with
        ctl := Write.apply s.ctl (.gpioLevel pin b) } := by
  simp only [driveLine, run, Prim.perform, setLine, ho, attempt_ok h, Reply.isOk, h]
  simp [State.write]

/-- A line write that fails (R218). -/
theorem run_driveLine_failed {s : State} {pin : Pin} {b : Bool} (next : Nat → Prog)
    (ho : s.ctl.gpio.isOpen = true) (h : s.answer.status = .failed) :
    (driveLine pin b next).run s = .done (.err ⟨.transportFailure, .lineError, []⟩)
      ((s.attempted (.lineSet (s.ctl.gpio.line pin) b) false).moveLine (s.ctl.gpio.line pin) s.answer.level) := by
  simp only [driveLine, run, Prim.perform, setLine, ho, attempt_failed (.inl h), Reply.isOk,
    State.disturbLine_open (s := s.attempted _ false) ho]
  rfl

/-- A line write on a sequencer that has been closed since the check fails, and moves no line (assumption 34). -/
theorem run_driveLine_closed {s : State} {pin : Pin} {b : Bool} (next : Nat → Prog)
    (ho : s.ctl.gpio.isOpen = false) (h : s.answer.status ≠ .stalled) :
    (driveLine pin b next).run s = .done (.err ⟨.transportFailure, .lineError, []⟩)
      (s.attempted (.lineSet (s.ctl.gpio.line pin) b) false) := by
  have ha : s.answer.status = .failed ∨ s.answer.status = .ok ∧ false = false := by
    cases e : s.answer.status <;> simp_all
  simp only [driveLine, run, Prim.perform, setLine, ho, attempt_failed ha, Reply.isOk,
    State.disturbLine_closed (s := s.attempted _ false) ho]
  rfl

/-- A line read that goes through gives the driven level, and only time passes (R137, R139). -/
theorem run_readLine {s : State} {pin : Pin} (ho : s.ctl.gpio.isOpen = true) (h : s.answer.status = .ok) :
    (readLine pin).run s
      = .done (.ok (.level (s.ctl.gpio.level pin))) { s.consume with now := s.attemptEnd } := by
  simp only [readLine, run, Prim.perform, getLine, outcome, ho, h, Reply.isOk]
  rfl

/-- A line read that fails (R218). -/
theorem run_readLine_failed {s : State} {pin : Pin}
    (h : s.answer.status = .failed ∨ s.answer.status = .ok ∧ s.ctl.gpio.isOpen = false) :
    (readLine pin).run s
      = .done (.err ⟨.transportFailure, .lineError, []⟩) { s.consume with now := s.attemptEnd } := by
  rcases h with h | ⟨h, ho⟩
  · simp only [readLine, run, Prim.perform, getLine, outcome, h, Reply.isOk]
    rfl
  · simp only [readLine, run, Prim.perform, getLine, outcome, ho, h, Reply.isOk]
    rfl

/-- A wait of at least `t` (R142). -/
theorem run_hold {s : State} {t slack : Nat} (k : Reply → Prog) :
    (act (.hold t slack) k).run s
      = (k (quietReply s)).run (s.emit s.now (s.now + t + slack) (.hold t) true) := rfl

/-! ### Resources -/

/-- The outcomes of `spiOpen` (R114). -/
theorem run_openTransport (s : State) :
    (openTransport).run s =
      if s.ctl.spi.isOpen then .done (.err ⟨.resourceUnavailable, .transportAlreadyOpen, []⟩) s
      else
        let ev := Event.spiOpen s.cfg.spiDevice 0 8 s.cfg.spiSpeedHz
        match s.answer.status with
        | .ok => .done (.ok .unit)
            { (s.attempted ev true).configureSpi with
              ctl := Write.apply (s.attempted ev true).configureSpi.ctl (.spiOpen true) }
        | .failed => .done (.err ⟨.resourceUnavailable, .spiDeviceCannotOpen, []⟩) (s.attempted ev false)
        | .stalled => .stalled { s.consume with now := s.now + s.answer.before } := by
  rw [openTransport, run_look]
  split_ifs with h
  · rfl
  · cases ha : s.answer.status
    · simp only [run, Prim.perform, attempt_ok ha, Reply.isOk, ha]; rfl
    · simp only [run, Prim.perform, attempt_failed (.inl ha), Reply.isOk]; rfl
    · simp only [run, Prim.perform, attempt_stalled ha]; rfl

/-- The outcomes of `spiClose` (R115). -/
theorem run_closeTransport (s : State) :
    (closeTransport).run s =
      if s.ctl.spi.isOpen then
        let closed (ok : Bool) : State :=
          { s.attempted .spiRelease ok with ctl := Write.apply s.ctl (.spiOpen false) }
        match s.answer.status with
        | .ok => .done (.ok .unit) (closed true)
        | .failed => .done (.err ⟨.transportFailure, .releaseError, []⟩) (closed false)
        | .stalled => .stalled { s.consume with now := s.now + s.answer.before }
      else .done (.ok .unit) s := by
  rw [closeTransport, run_look]
  split_ifs with h
  · cases ha : s.answer.status
    · simp only [run, Prim.perform, attempt_ok ha, run_assign, Reply.isOk, ha]; rfl
    · simp only [run, Prim.perform, attempt_failed (.inl ha), run_assign, Reply.isOk]; rfl
    · simp only [run, Prim.perform, attempt_stalled ha]; rfl
  · rfl

/-! ### Registers -/

/-- A read-modify-write that goes through: the write's byte is computed from the response of the read (R82,
R164, R190). -/
theorem run_readModifyWrite {s : State} {reg : Reg} {update : Byte → Byte}
    (ho : s.ctl.spi.isOpen = true) (h : s.answersOk [2, 2] = true) :
    (readModifyWrite reg update).run s = .done (.ok .unit)
      ((s.transferred (readFrame reg.addr)).transferred
        (writeFrame reg.addr (update ((s.response (readFrame reg.addr)).getD 1 0)))) := by
  have ha : reg.addr ≤ 0x13 := by cases reg <;> decide
  have h0 := (s.answersOk_iff _).1 h 0 2 rfl
  have h1 := (s.answersOk_iff _).1 h 1 2 rfl
  rw [State.answerAt_zero] at h0
  rw [readModifyWrite, run_readReg _ ho ha h0.1 h0.2,
    run_writeReg _ (by simpa using ho) ha (by simpa using h1.1) (by simpa using h1.2), run_ret]

/-- The three writes of a tuning word that go through (R153). -/
theorem run_writeWord {s : State} {first : Reg} {w : Nat} (hf : first.addr + 2 ≤ 0x13)
    (ho : s.ctl.spi.isOpen = true) (h : s.answersOk [2, 2, 2] = true) :
    (writeWord first w).run s = .done (.ok .unit)
      (((s.transferred (writeFrame first.addr (wordMsb w))).transferred
        (writeFrame (first.addr + 1) (wordMid w))).transferred
          (writeFrame (first.addr + 2) (wordLsb w))) := by
  have h0 := (s.answersOk_iff _).1 h 0 2 rfl
  have h1 := (s.answersOk_iff _).1 h 1 2 rfl
  have h2 := (s.answersOk_iff _).1 h 2 2 rfl
  rw [State.answerAt_zero] at h0
  rw [writeWord, run_writeReg _ ho (by omega) h0.1 h0.2,
    run_writeReg _ (by simpa using ho) (by omega) (by simpa using h1.1) (by simpa using h1.2),
    run_writeReg _ (by simpa using ho) (by omega) (by simpa using h2.1) (by simpa using h2.2), run_ret]

/-- The three reads of a tuning word that go through (R154). -/
theorem run_readWord {s : State} {first : Reg} (next : Nat → Prog) (hf : first.addr + 2 ≤ 0x13)
    (ho : s.ctl.spi.isOpen = true) (h : s.answersOk [2, 2, 2] = true) :
    (readWord first next).run s =
      let s₁ := s.transferred (readFrame first.addr)
      let s₂ := s₁.transferred (readFrame (first.addr + 1))
      (next (joinWord ((s.response (readFrame first.addr)).getD 1 0)
          ((s₁.response (readFrame (first.addr + 1))).getD 1 0)
          ((s₂.response (readFrame (first.addr + 2))).getD 1 0))).run
        (s₂.transferred (readFrame (first.addr + 2))) := by
  have h0 := (s.answersOk_iff _).1 h 0 2 rfl
  have h1 := (s.answersOk_iff _).1 h 1 2 rfl
  have h2 := (s.answersOk_iff _).1 h 2 2 rfl
  rw [State.answerAt_zero] at h0
  rw [readWord, run_readReg _ ho (by omega) h0.1 h0.2,
    run_readReg _ (by simpa using ho) (by omega) (by simpa using h1.1) (by simpa using h1.2),
    run_readReg _ (by simpa using ho) (by omega) (by simpa using h2.1) (by simpa using h2.2)]

/-- The single writes of a table that go through, in order (R206). -/
theorem run_writeTable {s : State} {table : List Host.Cell} (ha : ∀ e ∈ table, e.1 ≤ 0x13)
    (ho : s.ctl.spi.isOpen = true) (h : s.answersOk (table.map fun _ => 2) = true) :
    (writeTable table).run s = .done (.ok .unit)
      (table.foldl (fun u e => u.transferred (writeFrame e.1 e.2)) s) := by
  induction table generalizing s with
  | nil => rfl
  | cons e table ih =>
    have h0 := (s.answersOk_iff _).1 h 0 2 (by simp)
    rw [State.answerAt_zero] at h0
    rw [writeTable, run_writeReg _ ho (ha e (by simp)) h0.1 h0.2, List.foldl_cons]
    refine ih (fun e' he' => ha e' (by simp [he'])) (by simpa using ho) ?_
    rw [State.answersOk_iff]
    intro k n hk
    simpa using (s.answersOk_iff _).1 h (k + 1) n (by simpa using hk)

end Prog

end Sys2Proof.Machine
end

