-- ==== Sys2Proof/Tests/Slice0.lean ====
section
/-! SUPPORT. The model's own tests: what the checks refuse, the decoding of lines and words written out from
30_encoding.md, single steps on the vectors of 95_test_vectors.md, and a state for the hypotheses of every
statement. -/

namespace Sys2Proof.Machine.Slice0

set_option Elab.async false

/-! ### Refused by the checks (WellFormed smoke) -/

theorem test_wf_rx_frequency_too_wide : (Instr.setRxFrequency 4294967296).wellFormed = false := by decide

theorem test_wf_tx_frequency_too_wide : (Instr.setTxFrequency 4294967296).wellFormed = false := by decide

theorem test_wf_largest_frequency : (Instr.setRxFrequency 4294967295).wellFormed = true := by decide

theorem test_wf_scoped_transport_operation : (Call.scoped .spiOpen).wellFormed = false := by decide

theorem test_wf_scoped_bad_operand : (Call.scoped (.setTxFrequency 4294967296)).wellFormed = false := by
  decide

theorem test_writable_third : (Instr.setLnaGain (1 / 3)).writable = false := by decide +kernel

theorem test_writable_half : (Instr.setMixerGain (-15 / 2)).writable = true := by decide +kernel

theorem test_writable_quoted_chip : (Instr.gpioOpen ['a', '"'] 5 6).writable = false := by decide

/-! ### The notation: one line for each operation (R105 to R107) -/

/-- Does the line decode to the operation. -/
def reads (line : String) (i : Instr) : Bool :=
  match decodeCall line.toList with
  | .ok c => c == .op i
  | .error _ => false

/-- Does the line's decoding fail with the error. -/
def refuses (line : String) (e : DecodeError) : Bool :=
  match decodeCall line.toList with
  | .ok _ => false
  | .error e' => e' == e

theorem test_text_spiOpen : reads "spiOpen() ; opens" .spiOpen = true := by decide +kernel
theorem test_text_spiClose : reads "spiClose()" .spiClose = true := by decide +kernel
theorem test_text_writeRegister : reads "writeRegister(RXFE1, 0xDF)" (.writeRegister 0x0C 0xDF) = true := by decide +kernel
theorem test_text_readRegister : reads "readRegister(0x07)" (.readRegister 7) = true := by decide +kernel
theorem test_text_burstWrite : reads "burstWrite(FRFH_RX, [0xD8,0xF5,0xC3])" (.burstWrite 1 [0xD8, 0xF5, 0xC3]) = true := by decide +kernel
theorem test_text_burstRead : reads "burstRead(0x00, -1)" (.burstRead 0 (-1)) = true := by decide +kernel
theorem test_text_checkDevice : reads "checkDevice()" .checkDevice = true := by decide +kernel
theorem test_text_gpioOpen : reads "gpioOpen(\"gpiochip0\", 5, 6)" (.gpioOpen "gpiochip0".toList 5 6) = true := by decide +kernel
theorem test_text_reset : reads "reset()" .reset = true := by decide +kernel
theorem test_text_setResetPin : reads "setResetPin(true)" (.setResetPin true) = true := by decide +kernel
theorem test_text_getResetPin : reads "getResetPin()" .getResetPin = true := by decide +kernel
theorem test_text_setTxRxPin : reads "setTxRxPin(false)" (.setTxRxPin false) = true := by decide +kernel
theorem test_text_getTxRxPin : reads "getTxRxPin()" .getTxRxPin = true := by decide +kernel
theorem test_text_gpioClose : reads "gpioClose()" .gpioClose = true := by decide +kernel
theorem test_text_setRxFrequency : reads "setRxFrequency(434_000_000)" (.setRxFrequency 434000000) = true := by decide +kernel
theorem test_text_getRxFrequency : reads "getRxFrequency()" .getRxFrequency = true := by decide +kernel
theorem test_text_setTxFrequency : reads "setTxFrequency(445_000_000)" (.setTxFrequency 445000000) = true := by decide +kernel
theorem test_text_getTxFrequency : reads "getTxFrequency()" .getTxFrequency = true := by decide +kernel
theorem test_text_setLnaGain : reads "setLnaGain(40)" (.setLnaGain 40) = true := by decide +kernel
theorem test_text_setPgaGain : reads "setPgaGain(12)" (.setPgaGain 12) = true := by decide +kernel
theorem test_text_setDacGain : reads "setDacGain(-6)" (.setDacGain (-6)) = true := by decide +kernel
theorem test_text_setMixerGain : reads "setMixerGain(-7.5)" (.setMixerGain (-15 / 2)) = true := by decide +kernel
theorem test_text_open : reads "open()" .openController = true := by decide +kernel
theorem test_text_close : reads "close()" .closeController = true := by decide +kernel
theorem test_text_setMode : reads "setMode(0xF3)" (.setMode 0xF3) = true := by decide +kernel
theorem test_text_getMode : reads "getMode()" .getMode = true := by decide +kernel
theorem test_text_enableRx : reads "enableRx(true)" (.enableRx true) = true := by decide +kernel
theorem test_text_enableTx : reads "enableTx(false)" (.enableTx false) = true := by decide +kernel
theorem test_text_enablePA : reads "enablePA(true)" (.enablePA true) = true := by decide +kernel
theorem test_text_getStatus : reads "getStatus()" .getStatus = true := by decide +kernel
theorem test_text_getVersion : reads "getVersion()" .getVersion = true := by decide +kernel
theorem test_text_probe : reads "probe()" .probe = true := by decide +kernel
theorem test_text_setTxRxSwitch : reads "setTxRxSwitch(true)" (.setTxRxSwitch true) = true := by decide +kernel
theorem test_text_getTxRxSwitch : reads "getTxRxSwitch()" .getTxRxSwitch = true := by decide +kernel
theorem test_text_resetDevice : reads "resetDevice()" .resetDevice = true := by decide +kernel
theorem test_text_initializeWithDefaults : reads "initializeWithDefaults()" .initializeWithDefaults = true := by decide +kernel
theorem test_text_setMode_sleep : reads "setMode(sleep)" .setModeSleep = true := by decide +kernel
theorem test_text_setMode_standby : reads "setMode(standby)" .setModeStandby = true := by decide +kernel
theorem test_text_setMode_rx : reads "setMode(rx)" .setModeRx = true := by decide +kernel
theorem test_text_setMode_tx : reads "setMode(tx)" .setModeTx = true := by decide +kernel
theorem test_text_setMode_tx_full : reads "setMode(tx_full)" .setModeTxFull = true := by decide +kernel
theorem test_text_setMode_full_duplex : reads "setMode(full_duplex)" .setModeFullDuplex = true := by decide +kernel

theorem test_text_scoped :
    (match decodeCall "scoped(setTxRxSwitch(true))".toList with
      | .ok c => c == .scoped (.setTxRxSwitch true)
      | .error _ => false) = true := by decide +kernel

theorem test_text_program :
    (match decodeProgram "open() ; go\n\n; a comment\nclose()".toList with
      | .ok cs => cs == [.op .openController, .op .closeController]
      | .error _ => false) = true := by decide +kernel

theorem test_text_unknown : refuses "fly()" .unknownOperation = true := by decide +kernel

theorem test_text_operands : refuses "setMode(256)" .badOperands = true := by decide +kernel

theorem test_text_form : refuses "open" .badForm = true := by decide +kernel

theorem test_text_token : refuses "open() !" .badToken = true := by decide +kernel

theorem test_text_signed_db : reads "setDacGain(+3)" (.setDacGain 3) = true := by decide +kernel

theorem test_text_underscore_in_db :
    (match decodeCall "setLnaGain(10.2_5)".toList with | .ok _ => false | .error _ => true) = true ∧
    (match decodeCall "setLnaGain(_)".toList with | .ok _ => false | .error _ => true) = true := by
  decide +kernel

/-! ### Frames written out from R91 to R94 and R108, bit by bit -/

/-- A table of 17 entries of the form R205 asks for. -/
def demoTable : List Host.Cell :=
  [(0x01, 0xD9), (0x02, 0x00), (0x03, 0x00), (0x04, 0xD9), (0x05, 0x00), (0x06, 0x00), (0x00, 0x01),
   (0x08, 0x2F), (0x09, 0x11), (0x0A, 0x12), (0x0B, 0x13), (0x0C, 0x3F), (0x0D, 0x14), (0x0E, 0x15),
   (0x0F, 0x16), (0x10, 0x02), (0x12, 0x17)]

/-- Do the frames decode to the operation. -/
def carries (fs : List Frame) (i : Instr) : Bool :=
  match decodeFrames 32000000 demoTable fs with
  | .ok j => j == i
  | .error _ => false

/-- Does the decoding of the frames fail with the error. -/
def rejects (fs : List Frame) (e : DecodeError) : Bool :=
  match decodeFrames 32000000 demoTable fs with
  | .ok _ => false
  | .error e' => e' == e

theorem test_frames_writeRegister :
    carries [[0b10001100, 0b11011111]] (.writeRegister 0x0C 0xDF) = true := by
  decide +kernel
theorem test_frames_readRegister :
    carries [[0b00010011, 0b00000000]] (.readRegister 0x13) = true := by
  decide +kernel
theorem test_frames_burstWrite :
    carries [[0b10000001, 0b11011001, 0b00000000, 0b00000000]] (.burstWrite 1 [0xD9, 0, 0]) = true := by
  decide +kernel
theorem test_frames_burstRead :
    carries [[0b00000001, 0b00000000, 0b00000000, 0b00000000]] (.burstRead 1 3) = true := by
  decide +kernel
theorem test_frames_checkDevice :
    carries [[0b00000111, 0b00000000]] .checkDevice = true := by
  decide +kernel
theorem test_frames_setRxFrequency :
    carries [[0b10000001, 0b11011001], [0b10000010, 0b00000000], [0b10000011, 0b00000000]] (.setRxFrequency 434000000) = true := by
  decide +kernel
theorem test_frames_getRxFrequency :
    carries [[0b00000001, 0], [0b00000010, 0], [0b00000011, 0]] .getRxFrequency = true := by
  decide +kernel
theorem test_frames_setTxFrequency :
    carries [[0b10000100, 0b11011110], [0b10000101, 0b10000000], [0b10000110, 0b00000000]] (.setTxFrequency 445000000) = true := by
  decide +kernel
theorem test_frames_getTxFrequency :
    carries [[0b00000100, 0], [0b00000101, 0], [0b00000110, 0]] .getTxFrequency = true := by
  decide +kernel
theorem test_frames_setLnaGain :
    carries [[0b00001100, 0], [0b10001100, 0b11011111]] (.setLnaGain 6) = true := by
  decide +kernel
theorem test_frames_setDacGain :
    carries [[0b00001000, 0], [0b10001000, 0b00011111]] (.setDacGain (-6)) = true := by
  decide +kernel
theorem test_frames_setMode :
    carries [[0b10000000, 0b11110011]] (.setMode 0xF3) = true := by
  decide +kernel
theorem test_frames_setMode_full_duplex :
    carries [[0b10000000, 0b00001111]] .setModeFullDuplex = true := by
  decide +kernel
theorem test_frames_getMode : carries [[0b00000000, 0b00000000]] .getMode = true := by decide +kernel
theorem test_frames_enableRx :
    carries [[0b00000000, 0], [0b10000000, 0b00000011]] (.enableRx true) = true := by
  decide +kernel
theorem test_frames_getStatus : carries [[0b00010001, 0b00000000]] .getStatus = true := by decide +kernel

theorem test_frames_initializeWithDefaults :
    carries (demoTable.map fun e => [BitVec.ofNat 8 e.1 ||| 0x80, e.2]) .initializeWithDefaults = true := by
  decide +kernel

/-- R97: the frames of a reserved address stand for the call that needs them. -/
theorem test_frames_reserved : carries [[0x14, 0x00]] (.readRegister 0x14) = true := by decide +kernel

theorem test_frames_burst_past_end : carries [[0x92, 1, 2, 3]] (.burstWrite 0x12 [1, 2, 3]) = true := by
  decide +kernel

/-- R93, R94: a burst of no data bytes. -/
theorem test_frames_no_data :
    carries [[0x00]] (.burstRead 0 0) = true ∧ carries [[0xFF]] (.burstWrite 0x7F []) = true := by
  decide +kernel

theorem test_frames_dummy : rejects [[0x00, 0x01]] .dummyNotZero = true := by decide +kernel

theorem test_frames_short : rejects [[]] .shortFrame = true ∧ rejects [] .shortFrame = true := by
  decide +kernel

theorem test_frames_sequence : rejects [[0x81, 0xD9], [0x83, 0x00]] .unknownSequence = true := by
  decide +kernel

/-! ### The encoders' vectors (95_test_vectors.md N1 to N4, F1 to F27) -/

theorem test_encodeLna : [46, 45.5, 45, 40, 39, 30.5, 30, 18, 6.5, 6, -10].map encodeLna
    = [1, 1, 2, 2, 3, 3, 4, 5, 5, 6, 6] := by decide +kernel

theorem test_encodePga : [0, 1.9, 2, 15, 29.99, 30, 31, -5].map encodePga = [0, 0, 1, 7, 14, 15, 15, 0] := by
  decide +kernel

theorem test_encodeDac : [0, -3, -6, -9, -100, 3, -2.9].map encodeDac = [3, 2, 1, 0, 2, 2, 2] := by
  decide +kernel

theorem test_encodeMixer : [-7.5, 0, -8.5, -9.5, -20, -22.5, -36.5, -37, -37.5, -50].map encodeMixer
    = [15, 15, 15, 14, 9, 8, 1, 0, 0, 0] := by decide +kernel

theorem test_tuningWord : [400000001, 433920000, 434000015, 434000016, 446006250, 509999999].map
    (tuningWord 32000000) = [0xC80000, 0xD8F5C3, 0xD90000, 0xD90001, 0xDF00CD, 0xFF0000] := by decide

theorem test_wordHz : [0xD8F5C3, 0xC80100, 0xFFFFFF, 1, 0].map (wordHz 32000000)
    = [433920013, 400007813, 511999969, 31, 0] := by decide

theorem test_decodeVersion : [0x10, 0x1F, 0x00, 0xA3, 0xFF].map decodeVersion
    = ["V1".toList, "V1O".toList, "V0".toList, "V10C".toList, "V15O".toList] := by decide +kernel

theorem test_decodeStatus : [0x07, 0x08, 0xF0].map decodeStatus
    = [⟨false, true, true, true⟩, ⟨true, false, false, false⟩, ⟨false, false, false, false⟩] := by decide

/-! ### Single steps -/

/-- A platform answer: a success with a response. -/
def good (rx : Frame) : Answer := ⟨.ok, rx, false, 0, 0, 0⟩

/-- A platform answer that reports a failure. -/
def bad : Answer := ⟨.failed, [], false, 0, 0, 0⟩

/-- A platform answer that never comes. -/
def stuck : Answer := ⟨.stalled, [], false, 0, 0, 0⟩

/-- A small configuration: the lines of 41_gpio.md's example, and a few specified reset values. -/
def demoCfg : Config where
  spiDevice := ['s']
  spiSpeedHz := 1000000
  gpioChip := ['c']
  resetLine := 5
  txrxLine := 6
  fxosc := 32000000
  regDefaults := [(0x00, 0x01), (0x0C, 0x21)]
  defaultTable := demoTable
  serialized := true
  deviceCoherent := false

/-- The device with both wired lines low. -/
def quiet : Device := { Device.afterReset with resetPin := false, txrxPin := false }

/-- A machine with nothing open, both lines low and the platform's answers given. -/
def closed (inputs : List Answer) : State :=
  { State.reset with cfg := demoCfg, device := quiet, inputs := inputs }

/-- An open session on the wired lines. -/
def session : Controller where
  phase := .ready
  spi := ⟨true, ['s'], 0, 8, 1000000⟩
  gpio := ⟨true, ['c'], [6, 5], 5, 6, false, false⟩

/-- A machine with an open session and the platform's answers given. -/
def opened (inputs : List Answer) : State := { closed inputs with ctl := session }

/-- A machine whose transport and sequencer used alone are open on the wired lines, and the platform's answers
given. -/
def aloneOpen (inputs : List Answer) : State :=
  { closed inputs with alone := ⟨session.spi, session.gpio⟩ }

/-- The device with the reset line left high since a time, and two registers known. -/
def heldSince (since : Nat) : Device :=
  { quiet with
    held := true, resetPin := true, rose := some since, regs := [(0x07, 0x11), (0x0D, 0x21)] }

/-- The same machine with the device held in reset since time 0. -/
def heldOpen (inputs : List Answer) : State := { aloneOpen inputs with device := heldSince 0 }

/-- A coherent machine with an open session and the device's registers given. -/
def coherent (regs : List Host.Cell) (inputs : List Answer) : State :=
  { opened inputs with
    cfg := { demoCfg with deviceCoherent := true }
    device := { quiet with regs := regs } }

/-- The result an operation returns. -/
def resultOf (i : Instr) (s : State) : Option Result :=
  match exec i s with
  | .next t => t.returns.getLast?.map Return.result
  | _ => none

/-- The state an operation leaves, where it goes on. -/
def after (i : Instr) (s : State) : State :=
  match exec i s with
  | .next t => t
  | _ => s

/-- The kind of error an operation returns. -/
def errorOf (i : Instr) (s : State) : Option ErrorKind :=
  match resultOf i s with
  | some (.err e) => some e.kind
  | _ => none

theorem test_spiOpen : resultOf .spiOpen (closed [good []]) = some (.ok .unit) := by decide +kernel

theorem test_spiOpen_twice_T22 :
    errorOf .spiOpen (aloneOpen []) = some .resourceUnavailable := by
  decide +kernel

theorem test_spiClose_fails :
    errorOf .spiClose (aloneOpen [bad]) = some .transportFailure ∧ (after .spiClose (aloneOpen [bad])).alone.spi.isOpen = false := by
  decide +kernel

theorem test_spiClose_idempotent_T23 :
    resultOf .spiClose (closed []) = some (.ok .unit) := by
  decide +kernel

theorem test_writeRegister_S1 :
    (after (.writeRegister 0x0C 0xDF) (aloneOpen [good [1, 2]])).frames = [[0x8C, 0xDF]] := by
  decide +kernel

theorem test_writeRegister_T4 :
    errorOf (.writeRegister 0x7F 0) (aloneOpen []) = some .invalidArgument ∧ (after (.writeRegister 0x7F 0) (aloneOpen [])).frames = [] := by
  decide +kernel

theorem test_readRegister_S2 :
    resultOf (.readRegister 0x07) (aloneOpen [good [0x5A, 0x11]]) = some (.ok (.byte 0x11)) := by
  decide +kernel

theorem test_readRegister_short_T19 :
    errorOf (.readRegister 0) (aloneOpen [good [1]]) = some .invalidArgument ∧ (after (.readRegister 0) (aloneOpen [good [1]])).frames = [[0, 0]] := by
  decide +kernel

theorem test_burstWrite_T9 :
    (after (.burstWrite 0x01 [0xD9, 0, 0]) (aloneOpen [good [1, 2, 3, 4]])).frames = [[0x81, 0xD9, 0, 0]] := by
  decide +kernel

theorem test_burstWrite_T15 :
    errorOf (.burstWrite 0 (List.replicate 21 7)) (aloneOpen []) = some .invalidArgument := by
  decide +kernel

theorem test_burstRead_T10 :
    resultOf (.burstRead 0x01 3) (aloneOpen [good [9, 0xD8, 0xF5, 0xC3]]) = some (.ok (.bytes [0xD8, 0xF5, 0xC3])) := by
  decide +kernel

theorem test_burstRead_T16 :
    resultOf (.burstRead 0x20 0) (aloneOpen []) = some (.err ⟨.invalidArgument, .nonPositiveCount, []⟩) := by
  decide +kernel

theorem test_checkDevice_T17 :
    resultOf .checkDevice (aloneOpen [good [7, 0]]) = some (.ok (.byte 0)) := by
  decide +kernel

theorem test_checkDevice_T20 : errorOf .checkDevice (closed []) = some .invalidState := by decide +kernel

theorem test_gpioOpen_G1 :
    (after (.gpioOpen ['c'] 5 6) (closed [good [], good [], good []])).sideEvents = [(.chipOpen ['c'], true), (.lineRequest 5, true), (.lineSet 5 false, true),
      (.lineRequest 6, true), (.lineSet 6 false, true)] := by
  decide +kernel

theorem test_gpioOpen_G2 :
    (after (.gpioOpen ['c'] 5 6) (closed [good [], good [], bad, good [], good []])).sideEvents =
      [(.chipOpen ['c'], true), (.lineRequest 5, true), (.lineSet 5 false, true),
       (.lineRequest 6, false), (.lineRelease 5, true), (.chipRelease, true)] := by
  decide +kernel

theorem test_reset_G4 :
    (after .reset (aloneOpen [good [], good []])).sideEvents = [(.lineSet 5 true, true), (.hold 100000, true), (.lineSet 5 false, true), (.hold 5000000, true)] := by
  decide +kernel

theorem test_reset_time :
    (after .reset (aloneOpen [good [], good []])).now = 5100000 ∧ (after .reset (aloneOpen [good [], good []])).device.regs = [(0x00, 0x01), (0x0C, 0x21)] := by
  decide +kernel

theorem test_setResetPin_G5 :
    (after (.setResetPin true) (aloneOpen [good []])).device.resetPin = true := by
  decide +kernel

theorem test_getResetPin_G6 :
    resultOf .getResetPin (after (.setResetPin true) (aloneOpen [good [], good []])) = some (.ok (.level true)) := by
  decide +kernel

theorem test_setTxRxPin_G7 :
    (after (.setTxRxPin true) (aloneOpen [good []])).sideEvents = [(.lineSet 6 true, true)] := by
  decide +kernel

theorem test_getTxRxPin_G8 :
    resultOf .getTxRxPin (aloneOpen [good []]) = some (.ok (.level false)) := by
  decide +kernel

theorem test_getTxRxPin_S17 : errorOf .getTxRxPin (closed []) = some .invalidState := by decide +kernel

theorem test_gpioClose_G12 :
    resultOf .gpioClose (aloneOpen [good [], good [], bad]) = some (.err ⟨.transportFailure, .releaseError, []⟩) := by
  decide +kernel

theorem test_gpioClose_G13 :
    resultOf .gpioClose (aloneOpen [bad, bad, good []]) = some (.err ⟨.compositeCloseError, .closeErrors,
      [.transportFailure, .transportFailure]⟩) := by
  decide +kernel

theorem test_setRxFrequency_F5 :
    (after (.setRxFrequency 433920000) (opened [good [0, 0], good [0, 0], good [0, 0]])).frames = [[0x81, 0xD8], [0x82, 0xF5], [0x83, 0xC3]] := by
  decide +kernel

theorem test_setRxFrequency_F19 :
    errorOf (.setRxFrequency 0) (closed []) = some .notInitialized := by
  decide +kernel

theorem test_getRxFrequency_F21 :
    resultOf .getRxFrequency (opened [good [0, 255], good [0, 255], good [0, 255]]) = some (.ok (.hz 511999969)) := by
  decide +kernel

theorem test_setTxFrequency_F18 :
    errorOf (.setTxFrequency 4294967295) (opened []) = some .invalidArgument := by
  decide +kernel

theorem test_setTxFrequency_R155 :
    (after (.setTxFrequency 445000000) (opened [good [0, 0], good [0, 0], good [0, 0]])).frames = [[0x84, 0xDE], [0x85, 0x80], [0x86, 0x00]] := by
  decide +kernel

theorem test_getTxFrequency_F22 :
    resultOf .getTxFrequency (opened [good [0, 0xC8], good [0, 1], good [0, 0]]) = some (.ok (.hz 400007813)) := by
  decide +kernel

theorem test_setLnaGain_N5 :
    (after (.setLnaGain 5) (opened [good [0, 0x3F], good [0, 0]])).frames = [[0x0C, 0x00], [0x8C, 0xDF]] := by
  decide +kernel

theorem test_setLnaGain_N18 :
    errorOf (.setLnaGain 46) (opened [bad]) = some .transportFailure ∧ (after (.setLnaGain 46) (opened [bad])).frames = [[0x0C, 0x00]] := by
  decide +kernel

theorem test_setPgaGain_N10 :
    (after (.setPgaGain 0) (opened [good [0, 0xFF], good [0, 0]])).frames = [[0x0C, 0x00], [0x8C, 0xE1]] := by
  decide +kernel

theorem test_setDacGain_N13 :
    (after (.setDacGain 0) (opened [good [0, 0x80], good [0, 0]])).frames = [[0x08, 0x00], [0x88, 0xB0]] := by
  decide +kernel

theorem test_setMixerGain_N16 :
    (after (.setMixerGain (-20)) (opened [good [0, 0x70], good [0, 0]])).frames = [[0x08, 0x00], [0x88, 0x79]] := by
  decide +kernel

theorem test_open_P4 :
    errorOf .openController (closed [bad]) = some .resourceUnavailable ∧ (after .openController (closed [bad])).ctl = (closed []).ctl := by
  decide +kernel

theorem test_open_ready :
    (after .openController (closed [good [], good [], good [], good []])).ctl = session := by
  decide +kernel

theorem test_close_P7 :
    resultOf .closeController (opened [good [], good [], good [], bad]) = some (.err ⟨.compositeCloseError, .closeErrors, [.transportFailure]⟩) := by
  decide +kernel

theorem test_close_P2 : errorOf .closeController (closed []) = some .notInitialized := by decide +kernel

theorem test_setMode_M2 :
    (after (.setMode 0xF3) (opened [good [0, 0]])).device.regs = [(0x00, 0xF3)] := by
  decide +kernel

theorem test_getMode_M3 :
    resultOf .getMode (coherent [(0x00, 0x05)] [good [9, 9]]) = some (.ok (.byte 0x05)) := by
  decide +kernel

theorem test_enableRx_M11 :
    (after (.enableRx true) (opened [good [0, 0], good [0, 0]])).frames = [[0x00, 0x00], [0x80, 0x02]] := by
  decide +kernel

theorem test_enableRx_M5 :
    (after (.enableRx true) (opened [good [0, 3], good [0, 0]])).frames = [[0x00, 0x00], [0x80, 0x03]] := by
  decide +kernel

theorem test_enableTx_M8 :
    (after (.enableTx false) (opened [good [0, 5], good [0, 0]])).frames = [[0x00, 0x00], [0x80, 0x01]] := by
  decide +kernel

theorem test_enablePA_M10 :
    (after (.enablePA false) (opened [good [0, 0xFF], good [0, 0]])).frames = [[0x00, 0x00], [0x80, 0xF7]] := by
  decide +kernel

theorem test_getStatus_K2 :
    resultOf .getStatus (opened [good [0, 0x07]]) = some (.ok (.status ⟨false, true, true, true⟩)) := by
  decide +kernel

theorem test_getVersion_K14 :
    resultOf .getVersion (opened [good [0, 0xA3]]) = some (.ok (.version "V10C".toList)) := by
  decide +kernel

theorem test_probe_K16 :
    resultOf .probe (opened [good [0, 0x11]]) = some (.ok (.byte 0x11)) := by
  decide +kernel

theorem test_setTxRxSwitch_P9 :
    (after (.setTxRxSwitch true) (opened [good []])).ctl.gpio.txrx = true ∧ (after (.setTxRxSwitch true) (opened [good []])).frames = [] := by
  decide +kernel

theorem test_getTxRxSwitch_not_ready :
    errorOf .getTxRxSwitch (closed []) = some .notInitialized := by
  decide +kernel

theorem test_resetDevice_P12 :
    resultOf .resetDevice (opened [good [], good []]) = some (.ok .unit) ∧ (after .resetDevice (opened [good [], good []])).now = 5100000 := by
  decide +kernel

theorem test_initializeWithDefaults :
    (after .initializeWithDefaults (opened (List.replicate 17 (good [0, 0])))).frames.length = 17 := by
  decide +kernel

theorem test_initializeWithDefaults_P14 :
    errorOf .initializeWithDefaults (opened [good [0, 0], good [0, 0], good [0, 0], bad])
      = some .transportFailure ∧
    (after .initializeWithDefaults (opened [good [0, 0], good [0, 0], good [0, 0], bad])).frames
      = [[0x81, 0xD9], [0x82, 0x00], [0x83, 0x00], [0x84, 0xD9]] := by
  decide +kernel

theorem test_setMode_sleep :
    (after .setModeSleep (opened [good [0, 0]])).frames = [[0x80, 0x00]] := by
  decide +kernel

theorem test_setMode_standby :
    (after .setModeStandby (opened [good [0, 0]])).frames = [[0x80, 0x01]] := by
  decide +kernel

theorem test_setMode_rx :
    (after .setModeRx (opened [good [0, 0]])).frames = [[0x80, 0x03]] := by
  decide +kernel

theorem test_setMode_tx :
    (after .setModeTx (opened [good [0, 0]])).frames = [[0x80, 0x05]] := by
  decide +kernel

theorem test_setMode_tx_full :
    (after .setModeTxFull (opened [good [0, 0]])).frames = [[0x80, 0x0D]] := by
  decide +kernel

theorem test_setMode_full_duplex :
    (after .setModeFullDuplex (opened [good [0, 0]])).frames = [[0x80, 0x0F]] := by
  decide +kernel

theorem test_stalled_call_keeps_lock :
    (after .getMode (opened [stuck])).owner = some 0 ∧ (after .getMode (opened [stuck])).returns = [] := by
  decide +kernel

theorem test_gap_before_transfer :
    (after (.readRegister 0) { aloneOpen [good [0, 0]] with lastEnd := some 100, now := 200 }).trace.head? = some ⟨200, 10100, 0, .gap 10000, true⟩ := by
  decide +kernel

/-- R212, R220: the transport used alone is not the controller's. -/
theorem test_controller_owns_its_transport :
    errorOf .getMode (after .spiClose (after .openController (closed (List.replicate 5 (good [0, 0])))))
      = none := by decide +kernel

/-- R243, R252, R257: a close that leaves the reset line high, and the open after it, keep the registers. -/
theorem test_close_and_open_keep_registers :
    (after .closeController { opened (List.replicate 4 ⟨.ok, [], true, 0, 0, 0⟩) with
      device := { quiet with regs := [(0x00, 0x0D)] } }).device.regs = [(0x00, 0x0D)] ∧
    (after .openController { closed (List.replicate 4 (good [])) with
      device := { heldSince 0 with regs := [(0x00, 0x0D)] } }).device.regs = [(0x00, 0x0D)] := by
  decide +kernel

/-- R146, R248: a line that floats high after a close, and its fall at the next open, make a transfer a hazard. -/
theorem test_floating_line_is_a_hazard :
    (after .closeController (opened (List.replicate 4 ⟨.ok, [], true, 0, 0, 0⟩))).hazardNext = true ∧
    (after .openController { closed (List.replicate 5 (good [0, 0])) with
      device := { quiet with resetPin := true } }).hazardNext = true := by decide +kernel

/-- R248: a write within 5 ms after the fall leaves no register known. -/
theorem test_hazard_forgets :
    (after (.writeRegister 0x0C 0xDF) { aloneOpen [good [0, 0]] with
      now := 4999999, device := { quiet with fell := some 0, regs := [(0x00, 1)] } }).device.regs
      = [] := by decide +kernel

/-- R97, R217: a frame for a reserved address gives `InvalidArgument`, and puts nothing on the bus. -/
theorem test_reserved_frame_is_turned_away :
    (match step { aloneOpen [] with
        requests := [⟨0, 0, .frames [[0x94, 0x00]], [], false⟩], schedule := [0] } with
      | .next t => t.returns == [⟨0, .err ⟨.invalidArgument, .addressOutsideRange, []⟩⟩] && t.trace == []
      | _ => false) = true := by decide +kernel

/-- R248: after a reset line's release that stalls, the line is where the platform leaves it. -/
theorem test_stalled_release_floats :
    (after .gpioClose (aloneOpen [good [], ⟨.stalled, [], true, 0, 0, 0⟩])).device.resetPin = true ∧
    (after .gpioClose (aloneOpen [good [], ⟨.stalled, [], true, 0, 0, 0⟩])).alone.gpio.lines = [5] := by
  decide +kernel

theorem test_table_word_runs : step (State.reset.withFetchWord 16 0x0700)
    = exec .checkDevice { State.reset with picked := 1 } := rfl

/-! ### The race on a read-modify-write register (R78, R249, and 95_test_vectors.md after N19) -/

/-- Two callers, `setLnaGain(46)` and `setPgaGain(30)`, on a coherent device whose RXFE1 is 0. -/
def race (serialized : Bool) (schedule : List Nat) : State :=
  { coherent [(0x0C, 0x00)] [good [0, 0], good [0, 0], good [0, 0], good [0, 0]] with
    cfg := { demoCfg with deviceCoherent := true, serialized := serialized }
    requests := [⟨1, 0, .call (.op (.setLnaGain 46)), [], false⟩,
      ⟨2, 0, .call (.op (.setPgaGain 30)), [], false⟩]
    schedule := schedule }

/-- What RXFE1 holds after a number of steps. -/
def rxfe1After (n : Nat) (s : State) : Option Byte :=
  match runSteps n s with
  | .next t => if t.requests = [] then Memory.read 0x0C t.device.regs else none
  | _ => none

theorem test_race_loses_a_field :
    rxfe1After 20 (race false [0, 0, 0, 0, 1, 1, 1, 1, 0, 0, 0, 1, 1, 1, 0, 0, 0, 0, 0, 0]) = some 0x1E := by
  decide +kernel

theorem test_serialized_keeps_both :
    rxfe1After 2 (race true [0, 0]) = some 0x3E ∧ rxfe1After 2 (race true [1, 0]) = some 0x3E := by
  decide +kernel

/-- R64, with `SERIALIZED = false`: two callers' opens of one instance and a third one's close. -/
def opens (schedule : List Nat) : State :=
  { closed (List.replicate 12 (good [])) with
    cfg := { demoCfg with serialized := false }
    requests := [⟨1, 0, .call (.op .openController), [], false⟩,
      ⟨2, 0, .call (.op .openController), [], false⟩, ⟨3, 0, .call (.op .closeController), [], false⟩]
    schedule := schedule }

/-- The errors returned after a number of steps, where every controller is whole. -/
def errorsAfter (n : Nat) (s : State) : Option (List (Option ErrorKind)) :=
  match runSteps n s with
  | .next t =>
    if t.sessionsWhole then
      some (t.returns.map fun r => match r.result with | .ok _ => none | .err e => some e.kind)
    else none
  | _ => none

theorem test_opens_stay_whole :
    errorsAfter 6 (opens [0, 1, 2, 0, 0, 0]) = some [none, some .resourceUnavailable, none] ∧
    errorsAfter 1 (opens [0]) = some [] ∧ errorsAfter 2 (opens [0, 1]) = some [] := by decide +kernel

/-- With `SERIALIZED = false`: three callers' operations on an open sequencer used alone. -/
def lineRace (a b c : Instr) (schedule : List Nat) : State :=
  { aloneOpen (List.replicate 12 (good [])) with
    cfg := { demoCfg with serialized := false }
    requests := [⟨1, 0, .call (.op a), [], false⟩, ⟨2, 0, .call (.op b), [], false⟩, ⟨3, 0, .call (.op c), [], false⟩]
    schedule := schedule }

/-- The state after a number of steps. -/
def stepped (n : Nat) (s : State) : State :=
  match runSteps n s with
  | .next t => t
  | _ => s

/-- R28: a second `gpioClose` releases no line that a later `gpioOpen` requested. -/
theorem test_racing_closes :
    (stepped 6 (lineRace .gpioClose .gpioClose (.gpioOpen ['c'] 5 6) [0, 2, 1, 0, 0, 0])).handlesHeld = true ∧
    (stepped 6 (lineRace .gpioClose .gpioClose (.gpioOpen ['c'] 5 6) [0, 1, 2, 0, 0, 0])).alone.gpio
      = ⟨true, ['c'], [6, 5], 5, 6, false, false⟩ := by decide +kernel

/-- R30: the field of two racing writes is the level last driven. -/
theorem test_racing_writes :
    ((stepped 7 (lineRace (.setTxRxPin true) (.setTxRxPin false) .getTxRxPin [0, 1, 0, 1, 0, 0, 0])).alone.gpio.txrx,
      (stepped 7 (lineRace (.setTxRxPin true) (.setTxRxPin false) .getTxRxPin [0, 1, 0, 1, 0, 0, 0])).device.txrxPin)
        = (false, false) ∧
    ((stepped 6 (lineRace (.setTxRxPin true) (.setTxRxPin false) .getTxRxPin [0, 1, 1, 0, 0, 0])).alone.gpio.txrx,
      (stepped 6 (lineRace (.setTxRxPin true) (.setTxRxPin false) .getTxRxPin [0, 1, 1, 0, 0, 0])).device.txrxPin)
        = (true, true) := by decide +kernel

/-- Assumption 34: a line write after another caller's `gpioClose` fails, and moves no line. -/
theorem test_write_after_close :
    ((stepped 5 (lineRace (.setTxRxPin true) .gpioClose .getTxRxPin [0, 1, 0, 0, 0])).returns.map Return.result).head?
      = some (.err ⟨.transportFailure, .lineError, []⟩) ∧
    (stepped 5 (lineRace (.setTxRxPin true) .gpioClose .getTxRxPin [0, 1, 0, 0, 0])).device.txrxPin = false := by
  decide +kernel

/-! ### A state for the hypotheses of every statement -/

theorem witness_FrameLayouts : (0 : Nat) ≤ 0x13 ∧ (0x13 : Nat) ≤ 0x13 := by decide +kernel

theorem witness_WireBitOrder :
    ([0x81, 0xD9] : Frame)[1]? = some 0xD9 ∧ 7 < 8 ∧ (0x13 : Nat) ≤ 0x13 := by decide +kernel

theorem witness_FramesDecodeBack :
    demoTable.length = 17 ∧ [Instr.writeRegister 0x13 0xFF, .readRegister 0x13, .writeRegister 0x7F 1,
      .readRegister 0x14, .burstWrite 0 (List.replicate 20 7), .burstWrite 0x7F [1, 2], .burstWrite 0 [],
      .burstRead 0x12 2, .burstRead 0x14 0, .checkDevice, .setRxFrequency 434000000, .setTxFrequency 510000000, .getRxFrequency,
      .getTxFrequency, .setLnaGain 46, .setDacGain (-9), .setMode 0xF3, .getMode, .enableRx true, .getStatus,
      .initializeWithDefaults, .setModeSleep, .setModeStandby, .setModeRx, .setModeTx, .setModeTxFull,
      .setModeFullDuplex].all (ownsFrames 32000000) = true := by decide +kernel

theorem witness_TextDecodesBack :
    (Instr.setMixerGain (-75 / 2)).writable = true ∧ (Instr.gpioOpen ['c'] 5 6).writable = true := by decide +kernel

theorem witness_FrequencyFormulas :
    0 < 31875001 ∧ legalFxosc 31875001 = true ∧ 400000000 ≤ 510000000 ∧ 0xFFFFFF ≤ 0xFFFFFF ∧ legalFxosc 268435471 = true := by decide +kernel

theorem witness_FxoscRange :
    ({ opened [] with cfg := { demoCfg with fxosc := 31875000 } }).lockFree = true ∧
    ({ opened [] with cfg := { demoCfg with fxosc := 31875000 } }).ctl.phase = .ready ∧
    legalFxosc ({ opened [] with cfg := { demoCfg with fxosc := 31875000 } }).cfg.fxosc = false ∧ 0 < 31875000 := by decide +kernel

theorem witness_RoundTripAndMonotone :
    legalFxosc 268435471 = true ∧ 400000000 ≤ 400000000 ∧ 510000000 ≤ 510000000 := by decide +kernel

theorem witness_RoundTripAndMonotone_words :
    0 < 32000000 ∧ 400000000 ≤ 510000000 ∧ 0xC80000 ≤ 0xFF0000 := by decide +kernel

theorem witness_WordSplitAndJoin : 0xD8F5C3 < 2 ^ 24 ∧ 0xFFFFFF < 2 ^ 24 := by decide +kernel

theorem witness_FieldPacking : (7 : Nat) < 8 ∧ (15 : Nat) < 16 := by decide +kernel

theorem witness_GainEncoderProperties : (-75 / 2 : Rat) ≤ -15 / 2 := by decide +kernel

theorem witness_TransportOpensAndCloses_open :
    (aloneOpen []).lockFree = true ∧ (aloneOpen []).alone.spi.isOpen = true := by decide +kernel

theorem witness_TransportOpensAndCloses_ok :
    (closed [good []]).lockFree = true ∧ (closed [good []]).alone.spi.isOpen = false ∧
    (closed [good []]).answer.status = .ok := by decide +kernel

theorem witness_TransportOpensAndCloses_failed :
    (closed [bad]).lockFree = true ∧ (closed [bad]).alone.spi.isOpen = false ∧
    (closed [bad]).answer.status = .failed := by decide +kernel

theorem witness_TransportOpensAndCloses_release :
    (aloneOpen [bad]).lockFree = true ∧ (aloneOpen [bad]).alone.spi.isOpen = true ∧
    (aloneOpen [bad]).answer.status ≠ .stalled := by decide +kernel

theorem witness_WriteRegisterCompletes :
    ({ aloneOpen [good [0, 0]] with lastEnd := some 100, now := 200 }).lockFree = true ∧
    ({ aloneOpen [good [0, 0]] with lastEnd := some 100, now := 200 }).alone.spi.isOpen = true ∧
    ({ aloneOpen [good [0, 0]] with lastEnd := some 100, now := 200 }).answersOk [2] = true ∧
    (0x13 : Nat) ≤ 0x13 ∧ 200 < 100 + 10000 ∧
    (heldOpen [good [0, 0]]).lockFree = true ∧ (heldOpen [good [0, 0]]).alone.spi.isOpen = true ∧
    (heldOpen [good [0, 0]]).answersOk [2] = true ∧ (heldOpen [good [0, 0]]).hazardNext = true ∧
    (heldOpen [good [0, 0]]).lastEnd = none := by decide +kernel

theorem witness_ReadRegisterCompletes :
    (aloneOpen [good [0, 0]]).lockFree = true ∧ (aloneOpen [good [0, 0]]).alone.spi.isOpen = true ∧
    (aloneOpen [good [0, 0]]).answersOk [2] = true ∧ (0x13 : Nat) ≤ 0x13 ∧
    (aloneOpen [good [0, 0]]).hazardNext = false ∧ (heldOpen [good [0, 0]]).lockFree = true ∧
    (heldOpen [good [0, 0]]).alone.spi.isOpen = true ∧ (heldOpen [good [0, 0]]).answersOk [2] = true ∧
    (heldOpen [good [0, 0]]).hazardNext = true := by decide +kernel

theorem witness_BurstsComplete :
    (aloneOpen [good (List.replicate 21 0)]).lockFree = true ∧
    (aloneOpen [good (List.replicate 21 0)]).alone.spi.isOpen = true ∧
    (aloneOpen [good (List.replicate 21 0)]).answersOk [21] = true ∧ List.replicate 20 (0 : Byte) ≠ [] ∧
    0 + (List.replicate 20 (0 : Byte)).length ≤ 0x14 ∧
    (heldOpen [good [0, 0]]).lockFree = true ∧ (heldOpen [good [0, 0]]).alone.spi.isOpen = true ∧
    (heldOpen [good [0, 0]]).answersOk [1 + 1] = true ∧ (heldOpen [good [0, 0]]).hazardNext = true ∧
    0x13 + 1 ≤ 0x14 := by decide +kernel

theorem witness_RegisterOperationChecks :
    (closed []).lockFree = true ∧ (closed []).alone.spi.isOpen = false ∧ (aloneOpen []).lockFree = true ∧
    (aloneOpen []).alone.spi.isOpen = true ∧ 0x13 < 0x14 ∧ (0 : Int) ≤ 0 ∧ 0x13 < 0x12 + 3 - 1 := by decide +kernel

theorem witness_OperationsSendTheirPattern_legal :
    Instr.initializeWithDefaults.isController = true ∧ (opened []).cfg.legal = true ∧
    [0x92, 0x17] ∈ (opened []).patternOf .initializeWithDefaults := by decide +kernel

theorem witness_OperationsSendTheirPattern :
    [Instr.writeRegister 0x13 1, .burstRead 0x13 1, .checkDevice].all (fun i =>
      (aloneOpen [good [0, 0]]).acceptsRegisterOp i && (aloneOpen [good [0, 0]]).patternOf i != [] &&
        (aloneOpen [good [0, 0]]).answersOk (((aloneOpen [good [0, 0]]).patternOf i).map List.length)) = true ∧
    [Instr.setRxFrequency 400000000, .getTxFrequency, .setMixerGain 0, .enablePA false, .getStatus,
      .initializeWithDefaults].all (fun i =>
      (opened (List.replicate 17 (good [0, 0]))).acceptsRegisterOp i &&
        (opened (List.replicate 17 (good [0, 0]))).patternOf i != [] &&
        (opened (List.replicate 17 (good [0, 0]))).answersOk
          (((opened (List.replicate 17 (good [0, 0]))).patternOf i).map List.length)) = true := by decide +kernel

theorem witness_FailedFrameEndsOperation :
    (opened (List.replicate 16 (good [0, 0]) ++ [bad])).acceptsRegisterOp .initializeWithDefaults = true ∧
    16 < ((opened (List.replicate 16 (good [0, 0]) ++ [bad])).patternOf .initializeWithDefaults).length ∧
    (opened (List.replicate 16 (good [0, 0]) ++ [bad])).answersOk (List.replicate 16 2) = true ∧
    ((opened (List.replicate 16 (good [0, 0]) ++ [bad])).answerAt 16).status = .failed ∧
    (heldOpen [bad]).acceptsRegisterOp (.burstRead 0 20) = true ∧
    0 < ((heldOpen [bad]).patternOf (.burstRead 0 20)).length ∧
    ((heldOpen [bad]).answerAt 0).status = .failed := by decide +kernel

theorem witness_MismatchedResponse :
    (opened [good [0, 0], good [0]]).acceptsRegisterOp (.setLnaGain 5) = true ∧
    ((opened [good [0, 0], good [0]]).patternOf (.setLnaGain 5))[1]? = some [0x8C, 0xC0] ∧
    (opened [good [0, 0], good [0]]).answersOk (List.replicate 1 2) = true ∧
    ((opened [good [0, 0], good [0]]).answerAt 1).status = .ok ∧
    ((opened [good [0, 0], good [0]]).answerAt 1).rx.length ≠ ([0x8C, 0xC0] : Frame).length := by decide +kernel

theorem witness_StalledFrameHoldsLock :
    (opened [good [0, 0], stuck]).acceptsRegisterOp (.setTxFrequency 510000000) = true ∧
    (opened [good [0, 0], stuck]).cfg.serialized = true ∧
    1 < ((opened [good [0, 0], stuck]).patternOf (.setTxFrequency 510000000)).length ∧
    (opened [good [0, 0], stuck]).answersOk (List.replicate 1 2) = true ∧
    ((opened [good [0, 0], stuck]).answerAt 1).status = .stalled := by decide +kernel

theorem witness_GpioOpenCompletes :
    ({ closed (List.replicate 3 (good [])) with device := heldSince 0 }).lockFree = true ∧
    ({ closed (List.replicate 3 (good [])) with device := heldSince 0 }).alone.gpio.isOpen = false ∧
    ({ closed (List.replicate 3 (good [])) with device := heldSince 0 }).linesFree
      Gpio.afterReset Gpio.afterReset ['c'] [5, 6] = true ∧ 5 ≠ 6 ∧
    ({ closed (List.replicate 3 (good [])) with device := heldSince 0 }).answersSucceed 3 = true ∧
    (after (.gpioOpen ['c'] 5 6)
      { closed (List.replicate 3 (good [])) with device := heldSince 0 }).alone.gpio.isWired demoCfg = true := by
  decide +kernel

theorem witness_GpioOpenFailures_already :
    (aloneOpen []).lockFree = true ∧ (aloneOpen []).alone.gpio.isOpen = true := by decide +kernel

theorem witness_GpioOpenFailures_chip :
    (closed [bad]).lockFree = true ∧ (closed [bad]).alone.gpio.isOpen = false ∧
    (closed [bad]).answer.status = .failed := by decide +kernel

theorem witness_GpioOpenFailures_first :
    (closed [good [], bad, good []]).lockFree = true ∧
    (closed [good [], bad, good []]).alone.gpio.isOpen = false ∧
    (closed [good [], bad, good []]).answer.status = .ok ∧
    ((closed [good [], bad, good []]).answerAt 1).status = .failed ∧
    ((closed [good [], bad, good []]).answerAt 2).status = .ok ∧
    (opened []).linesFree (opened []).alone.gpio (opened []).ctl.gpio ['c'] [5] = false := by decide +kernel

theorem witness_GpioOpenFailures_second :
    (closed (List.replicate 5 (good []))).lockFree = true ∧
    (closed (List.replicate 5 (good []))).alone.gpio.isOpen = false ∧
    (closed (List.replicate 5 (good []))).answersSucceed 2 = true ∧
    (closed (List.replicate 5 (good []))).linesFree Gpio.afterReset Gpio.afterReset ['c'] [5] = true ∧
    ((closed (List.replicate 5 (good []))).answerAt 2).status ≠ .stalled ∧ (5 : Nat) = 5 ∧
    ((closed (List.replicate 5 (good []))).answerAt 3).status = .ok ∧
    ((closed (List.replicate 5 (good []))).answerAt 4).status = .ok := by decide +kernel

theorem witness_GpioNotOpenRejected :
    (closed []).lockFree = true ∧ (closed []).alone.gpio.isOpen = false := by decide +kernel

theorem witness_ResetPulse :
    (aloneOpen [good [], good []]).lockFree = true ∧
    ((aloneOpen [good [], good []]).gpioFor .reset).isOpen = true ∧
    (aloneOpen [good [], good []]).answersSucceed 2 = true ∧
    ((aloneOpen [good [], good []]).gpioFor .reset).isWired demoCfg = true ∧
    (aloneOpen [good [], good []]).device.held = false ∧
    (opened [good [], good []]).ctl.phase = .ready ∧
    ((opened [good [], good []]).gpioFor .resetDevice).isOpen = true ∧
    ((opened [good [], good []]).gpioFor .resetDevice).isWired demoCfg = true := by decide +kernel

theorem witness_ResetGivesDefaults :
    (aloneOpen [good [], good []]).lockFree = true ∧ Memory.wf demoCfg.regDefaults = true ∧
    ((aloneOpen [good [], good []]).gpioFor .reset).isOpen = true ∧
    ((aloneOpen [good [], good []]).gpioFor .reset).isWired demoCfg = true ∧
    (aloneOpen [good [], good []]).answersSucceed 2 = true ∧
    (aloneOpen [good [], good []]).device.held = false ∧
    (opened [good [], good []]).ctl.phase = .ready ∧
    ((opened [good [], good []]).gpioFor .resetDevice).isWired demoCfg = true ∧
    (aloneOpen [good []]).answer.status = .ok := by decide +kernel

theorem witness_ResetGivesDefaults_held :
    (heldOpen [good [], good []]).lockFree = true ∧ (heldOpen [good [], good []]).alone.gpio.isOpen = true ∧
    (heldOpen [good [], good []]).alone.gpio.isWired demoCfg = true ∧
    (heldOpen [good [], good []]).answersSucceed 2 = true ∧
    (heldOpen [good [], good []]).device.held = true ∧
    (heldOpen [good [], good []]).device.rose = some 0 ∧ 0 ≤ (heldOpen [good [], good []]).now := by
  decide +kernel

/-- The two ends of R253's bound: a pulse of one nanosecond less leaves a register unknown. -/
theorem witness_ResetGivesDefaults_bound :
    (after (.setResetPin false) { heldOpen [good []] with now := 99999 }).now = 99999 ∧
    Memory.read 0x0C (after (.setResetPin false) { heldOpen [good []] with now := 99999 }).device.regs = none ∧
    (after (.setResetPin false) { heldOpen [good []] with now := 100000 }).now = 100000 ∧
    Memory.read 0x0C (after (.setResetPin false) { heldOpen [good []] with now := 100000 }).device.regs
      = some 0x21 := by decide +kernel

theorem witness_PinWritesComplete :
    (aloneOpen [good []]).lockFree = true ∧ (aloneOpen [good []]).answer.status = .ok ∧
    (aloneOpen [good []]).alone.gpio.isOpen = true ∧ (aloneOpen [good []]).device.held = false ∧
    (aloneOpen [good []]).alone.gpio.isWired demoCfg = true ∧
    (aloneOpen [good []]).alone.gpio.txrxLine ≠ demoCfg.resetLine ∧
    (opened [good []]).lockFree = true ∧ (opened [good []]).ctl.phase = .ready ∧
    ((opened [good []]).gpioFor (.setTxRxSwitch true)).isOpen = true ∧
    ((opened [good []]).gpioFor (.setTxRxSwitch true)).isWired demoCfg = true := by decide +kernel

theorem witness_PinReadsComplete :
    (aloneOpen [good []]).lockFree = true ∧
    ((aloneOpen [good []]).gpioFor .getResetPin).isOpen = true ∧
    ((aloneOpen [good []]).gpioFor .getTxRxPin).isOpen = true ∧
    (aloneOpen [good []]).answer.status = .ok ∧ false = (aloneOpen [good []]).alone.gpio.reset ∧
    false = (aloneOpen [good []]).alone.gpio.txrx ∧ (opened [good []]).ctl.phase = .ready ∧
    ((opened [good []]).gpioFor .getTxRxSwitch).isOpen = true ∧
    false = (opened [good []]).ctl.gpio.txrx := by decide +kernel

theorem witness_LineFailures :
    (aloneOpen [bad]).lockFree = true ∧ (aloneOpen [bad]).answer.status = .failed ∧
    ((aloneOpen [bad]).gpioFor .reset).isOpen = true ∧ Instr.reset.isController = false ∧
    (aloneOpen [good [], bad]).answer.status = .ok ∧
    ((aloneOpen [good [], bad]).answerAt 1).status = .failed := by decide +kernel

theorem witness_LineFailures_controller :
    (opened [bad]).lockFree = true ∧ (opened [bad]).answer.status = .failed ∧
    [Instr.resetDevice, .setTxRxSwitch true, .getTxRxSwitch].all (fun i =>
      ((opened [bad]).gpioFor i).isOpen && i.isController) = true ∧ (opened [bad]).ctl.phase = .ready ∧
    (opened [good [], bad]).lockFree = true ∧ (opened [good [], bad]).answer.status = .ok ∧
    ((opened [good [], bad]).answerAt 1).status = .failed ∧ (opened [good [], bad]).ctl.phase = .ready := by
  decide +kernel

theorem witness_GpioCloseOutcomes :
    (closed []).lockFree = true ∧ (closed []).alone.gpio.isOpen = false ∧
    (aloneOpen [bad, good [], bad]).lockFree = true ∧ (aloneOpen [bad, good [], bad]).alone.gpio.isOpen = true ∧
    ∀ k < 3, ((aloneOpen [bad, good [], bad]).answerAt k).status ≠ .stalled := by decide +kernel

theorem witness_GpioCloseOutcomes_none_or_one :
    (aloneOpen [good [], good [], good []]).lockFree = true ∧
    (aloneOpen [good [], good [], good []]).alone.gpio.isOpen = true ∧
    (∀ k < 3, ((aloneOpen [good [], good [], good []]).answerAt k).status ≠ .stalled) ∧
    ((List.range 3).countP fun k => ((aloneOpen [good [], good [], good []]).answerAt k).status == .failed) = 0 ∧
    (aloneOpen [good [], bad, good []]).lockFree = true ∧
    (aloneOpen [good [], bad, good []]).alone.gpio.isOpen = true ∧
    (∀ k < 3, ((aloneOpen [good [], bad, good []]).answerAt k).status ≠ .stalled) ∧
    ((List.range 3).countP fun k => ((aloneOpen [good [], bad, good []]).answerAt k).status == .failed) = 1 ∧
    (aloneOpen [good [], bad, good []]).alone.gpio.isWired demoCfg = true := by decide +kernel

/-- The wired line high before the close, and left high or low by it. -/
theorem witness_GpioCloseOutcomes_level :
    (heldOpen [good [], good [], good []]).alone.gpio.isWired demoCfg = true ∧
    (heldOpen [good [], good [], good []]).device.resetPin = true ∧
    (after .gpioClose (heldOpen [good [], good [], good []])).device.resetPin = false ∧
    (after .gpioClose (heldOpen (List.replicate 3 ⟨.ok, [], true, 0, 0, 0⟩))).device.resetPin = true := by
  decide +kernel

theorem witness_SetFrequencyCompletes :
    (opened (List.replicate 3 (good [0, 0]))).lockFree = true ∧ (opened (List.replicate 3 (good [0, 0]))).inSession = true ∧
    legalFxosc (opened (List.replicate 3 (good [0, 0]))).cfg.fxosc = true ∧ 400000000 ≤ 510000000 ∧
    (opened (List.replicate 3 (good [0, 0]))).answersOk [2, 2, 2] = true ∧
    0xC80000 = (400000000 * 2 ^ 21 + 32000000) / (2 * 32000000) ∧
    0xFF0000 = (510000000 * 2 ^ 21 + 32000000) / (2 * 32000000) := by decide +kernel

theorem witness_GetFrequencyCompletes :
    (coherent [(0x01, 0xD9), (0x05, 0x80)] (List.replicate 3 (good [0, 7]))).lockFree = true ∧
    (coherent [(0x01, 0xD9), (0x05, 0x80)] (List.replicate 3 (good [0, 7]))).inSession = true ∧
    legalFxosc (coherent [(0x01, 0xD9), (0x05, 0x80)] (List.replicate 3 (good [0, 7]))).cfg.fxosc = true ∧
    (coherent [(0x01, 0xD9), (0x05, 0x80)] (List.replicate 3 (good [0, 7]))).answersOk [2, 2, 2] = true ∧
    0xD9 = (coherent [(0x01, 0xD9), (0x05, 0x80)] (List.replicate 3 (good [0, 7]))).byteRead 0 1 0x01 ∧
    7 = (coherent [(0x01, 0xD9), (0x05, 0x80)] (List.replicate 3 (good [0, 7]))).byteRead 1 1 0x02 ∧
    7 = (coherent [(0x01, 0xD9), (0x05, 0x80)] (List.replicate 3 (good [0, 7]))).byteRead 2 1 0x03 ∧
    7 = (coherent [(0x01, 0xD9), (0x05, 0x80)] (List.replicate 3 (good [0, 7]))).byteRead 0 1 0x04 ∧
    0x80 = (coherent [(0x01, 0xD9), (0x05, 0x80)] (List.replicate 3 (good [0, 7]))).byteRead 1 1 0x05 ∧
    7 = (coherent [(0x01, 0xD9), (0x05, 0x80)] (List.replicate 3 (good [0, 7]))).byteRead 2 1 0x06 := by
  decide +kernel

theorem witness_FrequencyRangeChecked :
    (opened []).lockFree = true ∧ (opened []).ctl.phase = .ready ∧
    legalFxosc (opened []).cfg.fxosc = true ∧ 399999999 < 400000000 ∧ 510000000 < 510000001 := by decide +kernel

theorem witness_SetFrequencyFailsMidway :
    (opened [good [0, 0], bad]).lockFree = true ∧ (opened [good [0, 0], bad]).inSession = true ∧
    legalFxosc (opened [good [0, 0], bad]).cfg.fxosc = true ∧ 400000000 ≤ 510000000 ∧
    (opened [good [0, 0], bad]).hazardNext = false ∧ (opened [good [0, 0], bad]).answersOk [2] = true ∧
    ((opened [good [0, 0], bad]).answerAt 1).status = .failed := by decide +kernel

theorem witness_CoherentFrequencyRoundTrip :
    (coherent [] (List.replicate 6 (good [0, 0]))).lockFree = true ∧ (coherent [] (List.replicate 6 (good [0, 0]))).inSession = true ∧
    legalFxosc (coherent [] (List.replicate 6 (good [0, 0]))).cfg.fxosc = true ∧ (coherent [] (List.replicate 6 (good [0, 0]))).cfg.deviceCoherent = true ∧
    (coherent [] (List.replicate 6 (good [0, 0]))).hazardNext = false ∧
    400000000 ≤ 510000000 ∧ (coherent [] (List.replicate 6 (good [0, 0]))).answersOk [2, 2, 2, 2, 2, 2] = true := by decide +kernel

theorem witness_GainSettersComplete :
    (coherent [(0x08, 0xA5)] (List.replicate 2 (good [0, 3]))).lockFree = true ∧
    (coherent [(0x08, 0xA5)] (List.replicate 2 (good [0, 3]))).inSession = true ∧
    (coherent [(0x08, 0xA5)] (List.replicate 2 (good [0, 3]))).answersOk [2, 2] = true ∧
    0xA5 = (coherent [(0x08, 0xA5)] (List.replicate 2 (good [0, 3]))).byteRead 0 1 0x08 ∧
    3 = (coherent [(0x08, 0xA5)] (List.replicate 2 (good [0, 3]))).byteRead 0 1 0x0C := by decide +kernel

theorem witness_EnableOperationsComplete :
    (opened (List.replicate 2 (good [0, 3]))).lockFree = true ∧
    (opened (List.replicate 2 (good [0, 3]))).inSession = true ∧
    (opened (List.replicate 2 (good [0, 3]))).answersOk [2, 2] = true ∧
    3 = (opened (List.replicate 2 (good [0, 3]))).byteRead 0 1 0x00 ∧
    (0x03 : Byte) = 3 ||| 0x02 ∧ (0x01 : Byte) = 3 &&& ~~~0x02 := by decide +kernel

theorem witness_CoherentGainPairs :
    (coherent [(0x08, 0xA5)] (List.replicate 4 (good [0, 0]))).lockFree = true ∧ (coherent [(0x08, 0xA5)] (List.replicate 4 (good [0, 0]))).inSession = true ∧
    (coherent [(0x08, 0xA5)] (List.replicate 4 (good [0, 0]))).cfg.deviceCoherent = true ∧
    (coherent [(0x08, 0xA5)] (List.replicate 4 (good [0, 0]))).hazardNext = false ∧
    (coherent [(0x08, 0xA5)] (List.replicate 4 (good [0, 0]))).answersOk [2, 2, 2, 2] = true := by decide +kernel

theorem witness_OpenCompletes :
    ({ closed (List.replicate 4 (good [])) with device := heldSince 0 }).lockFree = true ∧
    ({ closed (List.replicate 4 (good [])) with device := heldSince 0 }).sessionClosed = true ∧
    ({ closed (List.replicate 4 (good [])) with device := heldSince 0 }).configFree = true ∧
    ({ closed (List.replicate 4 (good [])) with device := heldSince 0 }).answersSucceed 4 = true := by
  decide +kernel

theorem witness_OpenFailures :
    (opened []).lockFree = true ∧ (opened []).ctl.phase = .ready ∧ (closed [bad]).lockFree = true ∧
    (closed [bad]).sessionClosed = true ∧ (closed [bad]).answer.status = .failed ∧
    (after .openController (closed [bad])).returns
      = (closed [bad]).returns ++ [⟨0, .err ⟨.resourceUnavailable, .openFailed, []⟩⟩] ∧
    exec .openController (closed [bad]) = .next (after .openController (closed [bad])) := by
  refine ⟨?_, ?_, ?_, ?_, ?_, ?_, rfl⟩ <;> decide +kernel

theorem witness_OpenFailures_second :
    (closed ((List.replicate 3 (good [0, 0])) ++ [bad] ++ (List.replicate 3 (good [0, 0])))).lockFree = true ∧
    (closed ((List.replicate 3 (good [0, 0])) ++ [bad] ++ (List.replicate 3 (good [0, 0])))).sessionClosed = true ∧
    (closed ((List.replicate 3 (good [0, 0])) ++ [bad] ++ (List.replicate 3 (good [0, 0])))).configFree = true ∧
    (closed ((List.replicate 3 (good [0, 0])) ++ [bad] ++ (List.replicate 3 (good [0, 0])))).answersSucceed 3 = true ∧
    ((closed ((List.replicate 3 (good [0, 0])) ++ [bad] ++ (List.replicate 3 (good [0, 0])))).answerAt 3).status = .failed ∧
    (((closed ((List.replicate 3 (good [0, 0])) ++ [bad] ++ (List.replicate 3 (good [0, 0])))).answerAt 4).status = .ok ∧
      ((closed ((List.replicate 3 (good [0, 0])) ++ [bad] ++ (List.replicate 3 (good [0, 0])))).answerAt 5).status = .ok ∧
      ((closed ((List.replicate 3 (good [0, 0])) ++ [bad] ++ (List.replicate 3 (good [0, 0])))).answerAt 6).status = .ok) := by decide +kernel

theorem witness_CloseOutcomes :
    (closed []).lockFree = true ∧ (closed []).ctl.phase = .notReady ∧
    (opened [bad, good [], good [], bad]).lockFree = true ∧
    (opened [bad, good [], good [], bad]).inSession = true ∧
    ∀ k < 4, ((opened [bad, good [], good [], bad]).answerAt k).status ≠ .stalled := by decide +kernel

theorem witness_CloseOutcomes_none_or_one :
    (opened (List.replicate 4 (good []))).lockFree = true ∧
    (opened (List.replicate 4 (good []))).inSession = true ∧
    (∀ k < 4, ((opened (List.replicate 4 (good []))).answerAt k).status ≠ .stalled) ∧
    ((List.range 4).countP fun k => ((opened (List.replicate 4 (good []))).answerAt k).status == .failed) = 0 ∧
    (opened [good [], good [], good [], bad]).lockFree = true ∧
    (opened [good [], good [], good [], bad]).inSession = true ∧
    (∀ k < 4, ((opened [good [], good [], good [], bad]).answerAt k).status ≠ .stalled) ∧
    ((List.range 4).countP fun k => ((opened [good [], good [], good [], bad]).answerAt k).status == .failed) = 1 ∧
    (opened [good [], good [], good [], bad]).ctl.gpio.isWired demoCfg = true := by decide +kernel

/-- The wired line high before the close, and left high or low by it. -/
theorem witness_CloseOutcomes_level :
    ({ opened (List.replicate 4 (good [])) with device := heldSince 0 }).device.resetPin = true ∧
    (after .closeController
      { opened (List.replicate 4 (good [])) with device := heldSince 0 }).device.resetPin = false ∧
    (after .closeController (opened (List.replicate 4 ⟨.ok, [], true, 0, 0, 0⟩))).device.resetPin = true := by
  decide +kernel

theorem witness_NotReadyRejected :
    (closed []).lockFree = true ∧ (Instr.setRxFrequency 1).isController = true ∧
    Instr.setRxFrequency 1 ≠ .openController ∧ (closed []).ctl.phase = .notReady ∧
    legalFxosc (closed []).cfg.fxosc = true := by decide +kernel

theorem witness_PhaseMachine :
    exec .openController (closed (List.replicate 4 (good [0, 0]))) = .next (after .openController (closed (List.replicate 4 (good [0, 0])))) ∧
    exec .closeController (opened (List.replicate 4 (good [0, 0]))) = .next (after .closeController (opened (List.replicate 4 (good [0, 0])))) ∧
    (after .closeController (opened (List.replicate 4 (good [0, 0])))).returns ≠ (opened (List.replicate 4 (good [0, 0]))).returns ∧
    exec .getMode (opened (List.replicate 4 (good [0, 0]))) = .next (after .getMode (opened (List.replicate 4 (good [0, 0])))) := by
  refine ⟨rfl, rfl, ?_, rfl⟩
  decide +kernel

theorem witness_SetModeCompletes :
    (opened [good [0, 0]]).lockFree = true ∧ (opened [good [0, 0]]).inSession = true ∧
    (opened [good [0, 0]]).answersOk [2] = true ∧ (Instr.setModeTx, (0x05 : Byte)) ∈
      [(Instr.setMode 0x05, (0x05 : Byte)), (.setModeSleep, 0x00), (.setModeStandby, 0x01), (.setModeRx, 0x03),
       (.setModeTx, 0x05), (.setModeTxFull, 0x0D), (.setModeFullDuplex, 0x0F)] := by decide +kernel

theorem witness_ReadingOperationsComplete :
    (opened [good [0, 0]]).lockFree = true ∧ (opened [good [0, 0]]).inSession = true ∧
    (opened [good [0, 0]]).answersOk [2] = true := by decide +kernel

theorem witness_DefaultsComplete :
    (opened (List.replicate 17 (good [0, 0]))).lockFree = true ∧ (opened (List.replicate 17 (good [0, 0]))).inSession = true ∧
    (∀ e ∈ (opened (List.replicate 17 (good [0, 0]))).cfg.defaultTable, e.1 ≤ 0x13) ∧
    (opened (List.replicate 17 (good [0, 0]))).cfg.defaultTable ≠ [] ∧
    (opened (List.replicate 17 (good [0, 0]))).answersOk ((opened (List.replicate 17 (good [0, 0]))).cfg.defaultTable.map fun _ => 2) = true ∧
    ((opened (List.replicate 17 (good [0, 0]))).cfg.defaultTable.map Prod.fst).Nodup := by decide +kernel

/-- Both the operation and the `close` after it fail. -/
def scopedFails : State := closed (List.replicate 4 (good []) ++ [bad, good [], bad, good [], bad])

theorem witness_ScopedLifecycle :
    exec .openController scopedFails = .next (after .openController scopedFails) ∧
    (after .openController scopedFails).returns = scopedFails.returns ++ [⟨0, .ok .unit⟩] ∧
    exec .getMode (after .openController scopedFails)
      = .next (after .getMode (after .openController scopedFails)) ∧
    (after .getMode (after .openController scopedFails)).returns
      = (after .openController scopedFails).returns ++ [⟨0, .err ⟨.transportFailure, .busError, []⟩⟩] ∧
    exec .closeController (after .getMode (after .openController scopedFails))
      = .next (after .closeController (after .getMode (after .openController scopedFails))) ∧
    (after .closeController (after .getMode (after .openController scopedFails))).returns
      = (after .getMode (after .openController scopedFails)).returns
        ++ [⟨0, .err ⟨.compositeCloseError, .closeErrors, [.transportFailure, .transportFailure]⟩⟩] := by
  refine ⟨rfl, ?_, rfl, ?_, rfl, ?_⟩ <;> decide +kernel

theorem witness_ScopedLifecycle_open_fails :
    exec .openController (closed [bad]) = .next (after .openController (closed [bad])) ∧
    (after .openController (closed [bad])).returns ≠ (closed [bad]).returns ++ [⟨0, .ok .unit⟩] := by
  refine ⟨rfl, ?_⟩; decide +kernel

theorem witness_ScopedLifecycle_two :
    (closed (List.replicate 18 (good []))).lockFree = true ∧
    (closed (List.replicate 18 (good []))).sessionClosed = true ∧
    (closed (List.replicate 18 (good []))).configFree = true ∧
    legalFxosc (closed (List.replicate 18 (good []))).cfg.fxosc = true ∧
    (closed (List.replicate 18 (good []))).answersSucceed 18 = true ∧
    (closed (List.replicate 18 (good []))).answersSucceed 8 = true ∧
    510000000 < 510000001 ∧ 399999999 < 400000000 := by decide +kernel

theorem witness_LockDiscipline :
    (opened []).cfg.serialized = true ∧ ({ opened [] with owner := some 3 }).owner ≠ none ∧
    exec .getMode (opened [stuck]) = .next (after .getMode (opened [stuck])) ∧
    exec .getMode (opened [good [0, 0]]) = .next (after .getMode (opened [good [0, 0]])) := by
  refine ⟨?_, ?_, rfl, rfl⟩ <;> decide +kernel

theorem witness_StepRunsTheDecodedOperation :
    (race true [1]).cfg.serialized = true ∧
    (race true [1]).nextRequest = some (1, ⟨2, 0, .call (.op (.setPgaGain 30)), [], false⟩) ∧
    (Instr.setPgaGain 30).wellFormed = true ∧ (Instr.setPgaGain 30).isController = true := by decide +kernel

theorem witness_StepRunsTheDecodedOperation_frames :
    (State.reset.withFetchWord 16 0x0700).cfg.serialized = true ∧
    (State.reset.withFetchWord 16 0x0700).nextRequest = some (0, ⟨0, 0, .frames [[0x07, 0x00]], [], false⟩) ∧
    (match decodeFrames 32000000 demoTable [[0x07, 0x00]] with
      | .ok i => i == .checkDevice && i.wellFormed
      | .error _ => false) = true := by decide +kernel

theorem witness_StepEventsAreOneCallers :
    (race true [1]).cfg.serialized = true ∧ ∃ t, step (race true [1]) = .next t := ⟨by decide +kernel, _, rfl⟩

/-- One call alone, with `SERIALIZED = false`. -/
def lone : State := { race false [] with requests := [⟨1, 0, .call (.op .getMode), [], false⟩] }

theorem witness_UnserializedCalls_lone :
    lone.cfg.serialized = false ∧ fetchCall demoCfg (.call (.op .getMode)) = .ok (.op .getMode) ∧
    ∃ res u, (programOfCall demoCfg (.op .getMode)).run
      ((lone.select ⟨1, 0, .call (.op .getMode), [], false⟩).view (Call.op .getMode).usedAlone)
        = .done res u := ⟨by decide +kernel, rfl, _, _, rfl⟩

theorem witness_UnserializedCalls_next :
    (race false [1]).nextRequest = some (1, ⟨2, 0, .call (.op (.setPgaGain 30)), [], false⟩) ∧
    (race false [1]).requests[1]? = some ⟨2, 0, .call (.op (.setPgaGain 30)), [], false⟩ ∧
    (∀ r' ∈ (race false [1]).requests.take 1, r'.caller ≠ 2) ∧
    (∃ p k, (programOfCall demoCfg (.op (.setPgaGain 30))).resume [] = .act p k ∧
      ∃ reply u, p.perform (((race false [1]).select
        ⟨2, 0, .call (.op (.setPgaGain 30)), [], false⟩).view false) = .replied reply u) :=
  ⟨by decide +kernel, by decide +kernel, by decide +kernel, _, _, rfl, _, _, rfl⟩

theorem witness_UnserializedCalls_return :
    (programOfCall demoCfg (.op .closeController)).resume [.result (.err ⟨.notInitialized, .notReady, []⟩)]
      = .done (.err ⟨.notInitialized, .notReady, []⟩) := rfl

theorem witness_UnserializedCalls_whole :
    (opens [0]).cfg.serialized = false ∧
    (opens [0]).nextRequest = some (0, ⟨1, 0, .call (.op .openController), [], false⟩) ∧
    ∃ q k, (programOfCall (opens [0]).cfg (.op .openController)).resume [] = .whole q k ∧
      ∃ res u, q.run (((opens [0]).select ⟨1, 0, .call (.op .openController), [], false⟩).view false)
        = .done res u :=
  ⟨by decide +kernel, by decide +kernel, _, _, rfl, _, _, rfl⟩

theorem witness_UnserializedCalls_race :
    (race false []).cfg.serialized = false ∧ (race false []).cfg.deviceCoherent = true ∧
    (race false []).inSession = true ∧ (race false []).hazardNext = false ∧ (1 : Nat) ≠ 2 ∧
    (race false []).answersOk [2, 2, 2, 2] = true ∧
    Memory.read 0x0C (race false []).device.regs = some 0 ∧ (race false []).ctlId = 0 ∧
    (race false []).requests = [⟨1, 0, .call (.op (.setLnaGain 46)), [], false⟩,
      ⟨2, 0, .call (.op (.setPgaGain 30)), [], false⟩] := by decide +kernel

theorem witness_StepKeepsInvariants :
    (race false [0]).gapsKept = true ∧ (race false [0]).framesLegal = true ∧
    (race false [0]).errorsWf = true ∧ (race false [0]).memoryWf = true ∧
    ∃ t, step (race false [0]) = .next t := by
  refine ⟨?_, ?_, ?_, ?_, _, rfl⟩ <;> decide +kernel

theorem witness_SessionStaysWhole :
    Instr.openController.isController = true ∧ (closed (List.replicate 4 (good []))).sessionWhole = true ∧
    exec .openController (closed (List.replicate 4 (good [])))
      = .next (after .openController (closed (List.replicate 4 (good [])))) ∧
    (after .openController (closed (List.replicate 4 (good [])))).returns ≠ (closed (List.replicate 4 (good []))).returns ∧
    exec .openController (closed [bad]) = .next (after .openController (closed [bad])) ∧
    (after .openController (closed [bad])).returns
      = (closed [bad]).returns ++ [⟨0, .err ⟨.resourceUnavailable, .openFailed, []⟩⟩] := by
  refine ⟨?_, ?_, rfl, ?_, rfl, ?_⟩ <;> decide +kernel

theorem witness_SessionStaysWhole_step :
    (race true [0]).sessionsWhole = true ∧ (∃ t, step (race true [0]) = .next t) ∧
    (opens [0]).sessionsWhole = true ∧ (opens [0]).turnsReady = true ∧ ∃ t, step (opens [0]) = .next t :=
  ⟨by decide +kernel, ⟨_, rfl⟩, by decide +kernel, by decide +kernel, _, rfl⟩

/-- A close that finds its controller `NotReady`, at its return. -/
def closeReturns : State :=
  { opens [0] with requests :=
      [⟨3, 0, .call (.op .closeController), [.result (.err ⟨.notInitialized, .notReady, []⟩)], false⟩] }

theorem witness_SessionStaysWhole_returns :
    closeReturns.turnsReady = true ∧
    closeReturns.nextRequest = some (0, ⟨3, 0, .call (.op .closeController),
      [.result (.err ⟨.notInitialized, .notReady, []⟩)], false⟩) ∧
    fetchCall closeReturns.cfg (.call (.op .closeController)) = .ok (.op .closeController) ∧
    Instr.closeController.isController = true ∧ ∃ t, step closeReturns = .next t ∧
      t.returns = closeReturns.returns ++ [⟨3, .err ⟨.notInitialized, .notReady, []⟩⟩] :=
  ⟨by decide +kernel, by decide +kernel, rfl, rfl, _, rfl, rfl⟩

theorem witness_StepKeepsHandles :
    (lineRace (.setTxRxPin true) .gpioClose .reset [0]).handlesHeld = true ∧
    (∃ t, step (lineRace (.setTxRxPin true) .gpioClose .reset [0]) = .next t) ∧
    (lineRace (.setTxRxPin true) .gpioClose .reset [1]).nextRequest
      = some (1, ⟨2, 0, .call (.op .gpioClose), [], false⟩) ∧
    fetchCall (lineRace (.setTxRxPin true) .gpioClose .reset [1]).cfg (.call (.op .gpioClose)) = .ok (.op .gpioClose) ∧
    ∃ t, step (lineRace (.setTxRxPin true) .gpioClose .reset [1]) = .next t :=
  ⟨by decide +kernel, ⟨_, rfl⟩, by decide +kernel, rfl, _, rfl⟩

theorem witness_StepKeepsHandles_levels :
    ∃ t, step (race true [0]) = .next t ∧ (t.view false).ctl.gpio.isOpen = true ∧
      (t.view false).ctl.gpio.resetLine ≠ (t.view false).ctl.gpio.txrxLine ∧
      (race true [0]).nextRequest = some (0, ⟨1, 0, .call (.op (.setLnaGain 46)), [], false⟩) ∧
      fetchCall (race true [0]).cfg (.call (.op (.setLnaGain 46))) = .ok (.op (.setLnaGain 46)) :=
  ⟨_, rfl, by decide +kernel, by decide +kernel, by decide +kernel, rfl⟩

/-- R220, with `SERIALIZED = false`: `getMode` whose controller another caller closed after the phase check. -/
theorem witness_SessionStaysWhole_resume :
    (programOfCall demoCfg (.op .getMode)).resume
      [.reply (quietReply (opened [])), .reply (quietReply (closed []))]
      = .done (.err ⟨.notInitialized, .notReady, []⟩) ∧ Instr.getMode.isController = true ∧
    (∀ t ∈ [Turn.reply (quietReply (opened [])), .reply (quietReply (closed []))], t.isReady = true) :=
  ⟨rfl, rfl, by decide +kernel⟩

end Sys2Proof.Machine.Slice0
end

section
/-! The start of a whole call (R3, R80, R208): what reading a request's source gives, what taking it up changes in
the state, and that the step then runs the call. -/

namespace Sys2Proof.Machine

/-! ### Reading a call -/

@[simp] theorem readSource_call (cfg : Config) (c : Call) : readSource cfg (.call c) = .ok c := rfl

@[simp] theorem readSource_text_eq_ok {cfg : Config} {line : List Char} {c : Call} :
    readSource cfg (.text line) = .ok c ↔ decodeCall line = .ok c := by
  cases h : decodeCall line <;> simp [readSource, h]

@[simp] theorem readSource_frames_eq_ok {cfg : Config} {fs : List Frame} {c : Call} :
    readSource cfg (.frames fs) = .ok c ↔
      ∃ i, decodeFrames cfg.fxosc cfg.defaultTable fs = .ok i ∧ c = .op i := by
  cases h : decodeFrames cfg.fxosc cfg.defaultTable fs <;> simp [readSource, h, eq_comm]

theorem fetchCall_op {cfg : Config} {src : Source} {i : Instr} (hread : readSource cfg src = .ok (.op i))
    (hwf : i.wellFormed = true) : fetchCall cfg src = .ok (.op i) := by
  simp [fetchCall, hread, hwf]

theorem fetchCall_scoped {cfg : Config} {src : Source} {i : Instr}
    (hread : readSource cfg src = .ok (.scoped i)) (hwf : i.wellFormed = true)
    (hctl : i.isController = true) : fetchCall cfg src = .ok (.scoped i) := by
  simp [fetchCall, hread, hwf, hctl]

/-! ### Taking up a request -/

namespace State

/-- The parts of the state that making another controller the current one may move (R65). -/
theorem attach_eq (s : State) (id : Nat) :
    s.attach id = { s with
      ctl := (s.attach id).ctl, alone := (s.attach id).alone, ctlId := id,
      parked := (s.attach id).parked } := by
  unfold attach
  split
  · next h => rw [h]
  · rfl

@[simp] theorem attach_self (s : State) : s.attach s.ctlId = s := if_pos rfl

/-- The parts of the state that taking up a request may move. -/
theorem startCall_eq (s : State) (n : Nat) (r : Request) :
    s.startCall n r = { s with
      ctl := (s.attach r.target).ctl, alone := (s.attach r.target).alone, ctlId := r.target,
      parked := (s.attach r.target).parked, caller := r.caller, schedule := s.schedule.tail,
      picked := s.picked + 1, requests := s.requests.eraseIdx n } := by
  rw [startCall, select, attach_eq]

section
variable (s : State) (n : Nat) (r : Request)

@[simp] theorem startCall_caller : (s.startCall n r).caller = r.caller := rfl
@[simp] theorem startCall_requests : (s.startCall n r).requests = s.requests.eraseIdx n := rfl
@[simp] theorem startCall_ctl : (s.startCall n r).ctl = (s.attach r.target).ctl := rfl
@[simp] theorem startCall_alone : (s.startCall n r).alone = (s.attach r.target).alone := rfl
@[simp] theorem startCall_parked : (s.startCall n r).parked = (s.attach r.target).parked := rfl
@[simp] theorem startCall_ctlId : (s.startCall n r).ctlId = r.target := by rw [startCall_eq]
@[simp] theorem startCall_cfg : (s.startCall n r).cfg = s.cfg := by rw [startCall_eq]
@[simp] theorem startCall_device : (s.startCall n r).device = s.device := by rw [startCall_eq]
@[simp] theorem startCall_trace : (s.startCall n r).trace = s.trace := by rw [startCall_eq]
@[simp] theorem startCall_now : (s.startCall n r).now = s.now := by rw [startCall_eq]
@[simp] theorem startCall_lastEnd : (s.startCall n r).lastEnd = s.lastEnd := by rw [startCall_eq]
@[simp] theorem startCall_owner : (s.startCall n r).owner = s.owner := by rw [startCall_eq]
@[simp] theorem startCall_inputs : (s.startCall n r).inputs = s.inputs := by rw [startCall_eq]

end

/-- A request for the current controller finds its components where they were. -/
theorem startCall_sameParts {s : State} {r : Request} (n : Nat) (h : r.target = s.ctlId) :
    SameParts s (s.startCall n r) where
  ctl := by simp [h]
  alone := by simp [h]

end State

/-! ### The step of a whole call -/

section
variable {s : State} {n : Nat} {r : Request} {i : Instr}

/-- With `SERIALIZED = true` the step is the whole call that the next request's source gives (R80). -/
theorem step_eq_runWhole {c : Call} (hser : s.cfg.serialized = true) (hnext : s.nextRequest = some (n, r))
    (hfetch : fetchCall s.cfg r.source = .ok c) : step s = runWhole n r c s := by
  simp [step, hnext, hfetch, hser]

theorem step_eq_exec (hser : s.cfg.serialized = true) (hnext : s.nextRequest = some (n, r))
    (hwf : i.wellFormed = true) (hread : readSource s.cfg r.source = .ok (.op i)) :
    step s = exec i (s.startCall n r) :=
  step_eq_runWhole hser hnext (fetchCall_op hread hwf)

theorem step_eq_execScoped (hser : s.cfg.serialized = true) (hnext : s.nextRequest = some (n, r))
    (hwf : i.wellFormed = true) (hctl : i.isController = true)
    (hread : readSource s.cfg r.source = .ok (.scoped i)) :
    step s = execScoped i (s.startCall n r) :=
  step_eq_runWhole hser hnext (fetchCall_scoped hread hwf hctl)

end

/-- Settles O50: each way of issuing a call reads to the same call, whose whole run is the step. -/
theorem stepRunsTheDecodedOperation : Obligations.StepRunsTheDecodedOperation := by
  intro s n r i hser hnext hwf
  refine ⟨fun hsrc => step_eq_exec hser hnext hwf ?_,
    fun hsrc hctl => step_eq_execScoped hser hnext hwf hctl ?_,
    s.startCall_caller n r, s.startCall_ctlId n r, s.startCall_requests n r, s.startCall_cfg n r,
    s.startCall_device n r, s.startCall_trace n r, s.startCall_now n r, s.startCall_lastEnd n r,
    s.startCall_owner n r, s.startCall_inputs n r,
    fun h => ⟨State.startCall_sameParts n h, by simp [h]⟩⟩
  · rcases hsrc with hcall | ⟨fs, hframes, hdec⟩ | ⟨line, htext, hdec⟩
    · simp [hcall]
    · simp [hframes, hdec]
    · simp [htext, hdec]
  · rcases hsrc with hcall | ⟨line, htext, hdec⟩
    · simp [hcall]
    · simp [htext, hdec]

end Sys2Proof.Machine
end

section
/-! The shape of the programs, read off once (R12; assumption 9): every operation is quiet, opening and closing
nothing, or it is one uninterrupted open or close. With it, the results an operation can end with (R219, R220). -/

namespace Sys2Proof.Machine

/-! ### Quiet programs and parts -/

/-- A primitive that opens and closes nothing. -/
def Prim.isQuiet : Prim → Bool
  | .look | .xfer _ | .gap _ | .hold _ _ | .lineSet _ _ | .lineGet _ => true
  | _ => false

/-- No `InvalidState` among the members of a result's error. -/
def Result.membersReady : Result → Prop
  | .ok _ => True
  | .err e => .invalidState ∉ e.members

/-- The results an operation may end with: a controller's is no `InvalidState` (R220), and no composite has one
among its members. -/
def Result.endOf : (controller : Bool) → Result → Prop
  | true, r => r.isReady = true
  | false, r => r.membersReady

/-- The uninterrupted parts of a configuration's programs: the opens and closes of the components used alone, and
those of a controller. -/
inductive Part (cfg : Config) : (alone : Bool) → Prog → Prop
  | openTransport : Part cfg true openTransport
  | closeTransport : Part cfg true closeTransport
  | openSequencer (chip : Path) (resetPin txRxPin : Nat) : Part cfg true (openSequencer chip resetPin txRxPin)
  | closeSequencer : Part cfg true closeSequencer
  | openSession {q : Prog} (h : openSession cfg = .uninterrupted q) : Part cfg false q
  | closeSession {q : Prog} (h : closeSession = .uninterrupted q) : Part cfg false q

namespace Prog

/-- The program's primitives are quiet, it has no uninterrupted part, and it ends in a result of `D`. -/
def Quiet (D : Result → Prop) : Prog → Prop
  | .done r => D r
  | .refuse _ => True
  | .act p k => p.isQuiet = true ∧ ∀ r, (k r).Quiet D
  | .whole _ _ => False

/-- Each turn of the program is a quiet primitive or an uninterrupted part of `W`. -/
def Turns (W : Prog → Prop) : Prog → Prop
  | .done _ => True
  | .refuse _ => True
  | .act p k => p.isQuiet = true ∧ ∀ r, (k r).Turns W
  | .whole q k => W q ∧ ∀ r, (k r).Turns W

/-- The program's next turn alone. -/
def oneTurn : Prog → Prog
  | .act p _ => .act p fun _ => .ret .unit
  | .whole q _ => .uninterrupted q
  | q => q

theorem Quiet.bind {D E : Result → Prop} {q : Prog} {f : Result → Prog} (hq : q.Quiet D)
    (hf : ∀ r, D r → (f r).Quiet E) : (q.bind f).Quiet E := by
  induction q with
  | done r => exact hf r hq
  | refuse => trivial
  | act p k ih => exact ⟨hq.1, fun r => ih r (hq.2 r)⟩
  | whole => exact hq.elim

theorem Quiet.turns {D : Result → Prop} {q : Prog} (W : Prog → Prop) (hq : q.Quiet D) : q.Turns W := by
  induction q with
  | done | refuse => trivial
  | act p k ih => exact ⟨hq.1, fun r => ih r (hq.2 r)⟩
  | whole => exact hq.elim

theorem Quiet.ends {D : Result → Prop} {q : Prog} (P : Result → Prop) (hq : q.Quiet D) : Ends P D q := by
  induction q with
  | done => exact hq
  | refuse => trivial
  | act p k ih => exact fun r => ih r (hq.2 r)
  | whole => exact hq.elim

theorem Turns.bind {W : Prog → Prop} {q : Prog} {f : Result → Prog} (hq : q.Turns W)
    (hf : ∀ r, (f r).Turns W) : (q.bind f).Turns W := by
  induction q with
  | done r => exact hf r
  | refuse => trivial
  | act p k ih => exact ⟨hq.1, fun r => ih r (hq.2 r)⟩
  | whole q k _ ih => exact ⟨hq.1, fun r => ih r (hq.2 r)⟩

theorem Turns.resume {W : Prog → Prop} {q : Prog} (hq : q.Turns W) (ts : List Turn) :
    (q.resume ts).Turns W := by
  induction q generalizing ts with
  | done | refuse => cases ts <;> trivial
  | act p k ih =>
    rcases ts with _ | ⟨_ | _, ts⟩
    · exact hq
    · exact ih _ (hq.2 _) ts
    · exact hq
  | whole q k _ ih =>
    rcases ts with _ | ⟨_ | _, ts⟩
    · exact hq
    · exact hq
    · exact ih _ (hq.2 _) ts

theorem Turns.oneTurn {W : Prog → Prop} {q : Prog} (hq : q.Turns W) : q.oneTurn.Turns W := by
  cases q with
  | done | refuse => trivial
  | act p k => exact ⟨hq.1, fun _ => trivial⟩
  | whole q k => exact ⟨hq.1, fun _ => trivial⟩

theorem Ends.mono {P D E : Result → Prop} {q : Prog} (hq : Ends P D q) (h : ∀ r, D r → E r) : Ends P E q := by
  induction q with
  | done r => exact h r hq
  | refuse => trivial
  | act p k ih => exact fun r => ih r (hq r)
  | whole q k _ ih => exact ⟨hq.1, fun r hr => ih r (hq.2 r hr)⟩

end Prog

/-! ### Results -/

@[simp] theorem Result.isReady_ok (v : Value) : (Result.ok v).isReady = true := rfl

@[simp] theorem Result.isReady_err {e : Error} :
    (Result.err e).isReady = true ↔ e.kind ≠ .invalidState ∧ .invalidState ∉ e.members := by
  simp [Result.isReady]

theorem Result.membersReady_of_isReady {r : Result} (h : r.isReady = true) : r.membersReady := by
  cases r with
  | ok v => trivial
  | err e => exact (Result.isReady_err.mp h).2

/-- What a controller operation makes of a result (R220). -/
theorem Result.isReady_inController {r : Result} (h : r.membersReady) : r.inController.isReady = true := by
  cases r with
  | ok v => rfl
  | err e =>
    by_cases hk : e.kind = .invalidState
    · rw [Result.inController, if_pos hk]; rfl
    · rw [Result.inController_err hk]; exact Result.isReady_err.mpr ⟨hk, h⟩

theorem Error.not_mem_flatten {e : Error} (h : (Result.err e).isReady = true) : .invalidState ∉ e.flatten := by
  obtain ⟨hkind, hmem⟩ := Result.isReady_err.mp h
  unfold Error.flatten
  split
  · exact hmem
  · simpa using fun he => hkind he.symm

theorem Result.not_mem_errors {r : Result} (h : r.isReady = true) : .invalidState ∉ r.errors := by
  cases r with
  | ok v => simp [Result.errors]
  | err e => exact Error.not_mem_flatten h

/-- A composite of members that are no `InvalidState` (R219). -/
theorem isReady_composite {l : List ErrorKind} (h : .invalidState ∉ l) :
    (Result.err ⟨.compositeCloseError, .closeErrors, l⟩).isReady = true := by
  simp [h]

/-! ### The shared steps are quiet -/

section
variable {q : Prog}

theorem quiet_raise (kind : ErrorKind) (info : ErrorInfo) : (Prog.raise kind info).Quiet Result.membersReady :=
  List.not_mem_nil

theorem quiet_requireReady (hq : q.Quiet Result.membersReady) :
    (requireReady q).Quiet (Result.endOf true) := by
  refine ⟨rfl, fun r => ?_⟩
  dsimp only
  split
  · exact hq.bind fun _ hr => Result.isReady_inController hr
  · exact Result.isReady_err.mpr ⟨by decide, List.not_mem_nil⟩

theorem quiet_requireSpi (hq : q.Quiet Result.membersReady) : (requireSpi q).Quiet Result.membersReady := by
  refine ⟨rfl, fun r => ?_⟩
  dsimp only
  split
  · exact hq
  · exact quiet_raise _ _

theorem quiet_requireGpio (hq : q.Quiet Result.membersReady) : (requireGpio q).Quiet Result.membersReady := by
  refine ⟨rfl, fun r => ?_⟩
  dsimp only
  split
  · exact hq
  · exact quiet_raise _ _

theorem quiet_requireRange (start n : Nat) (hq : q.Quiet Result.membersReady) :
    (requireRange start n q).Quiet Result.membersReady := by
  unfold requireRange
  split
  · exact hq
  · exact quiet_raise _ _

theorem quiet_requireFxosc {D : Result → Prop} (cfg : Config) (hq : q.Quiet D) : (requireFxosc cfg q).Quiet D := by
  unfold requireFxosc
  split
  · exact hq
  · trivial

theorem quiet_spiTransfer (tx : Frame) {next : Frame → Prog} (h : ∀ rx, (next rx).Quiet Result.membersReady) :
    (spiTransfer tx next).Quiet Result.membersReady := by
  refine ⟨rfl, fun r => ?_⟩
  dsimp only
  split_ifs
  · exact quiet_raise _ _
  · exact quiet_raise _ _
  · exact ⟨rfl, fun _ => h _⟩

theorem quiet_writeReg (addr : Nat) (value : Byte) (hq : q.Quiet Result.membersReady) :
    (writeReg addr value q).Quiet Result.membersReady :=
  quiet_requireSpi (quiet_requireRange _ _ (quiet_spiTransfer _ fun _ => hq))

theorem quiet_readReg (addr : Nat) {next : Byte → Prog} (h : ∀ r, (next r).Quiet Result.membersReady) :
    (readReg addr next).Quiet Result.membersReady := by
  refine quiet_requireSpi (quiet_requireRange _ _ (quiet_spiTransfer _ fun rx => ?_))
  split
  · exact h _
  · exact quiet_raise _ _

theorem quiet_returnReg (addr : Nat) : (returnReg addr).Quiet Result.membersReady :=
  quiet_readReg _ fun _ => trivial

theorem quiet_readModifyWrite (reg : Reg) (update : Byte → Byte) :
    (readModifyWrite reg update).Quiet Result.membersReady :=
  quiet_readReg _ fun _ => quiet_writeReg _ _ trivial

theorem quiet_writeWord (first : Reg) (w : Nat) : (writeWord first w).Quiet Result.membersReady :=
  quiet_writeReg _ _ (quiet_writeReg _ _ (quiet_writeReg _ _ trivial))

theorem quiet_readWord (first : Reg) {next : Nat → Prog} (h : ∀ w, (next w).Quiet Result.membersReady) :
    (readWord first next).Quiet Result.membersReady :=
  quiet_readReg _ fun _ => quiet_readReg _ fun _ => quiet_readReg _ fun _ => h _

theorem quiet_writeTable (table : List Host.Cell) : (writeTable table).Quiet Result.membersReady := by
  induction table with
  | nil => trivial
  | cons e rest ih => exact quiet_writeReg _ _ ih

theorem quiet_setFrequency (cfg : Config) (first : Reg) (f : Nat) :
    (setFrequency cfg first f).Quiet (Result.endOf true) := by
  refine quiet_requireFxosc _ (quiet_requireReady ?_)
  split
  · exact quiet_writeWord _ _
  · exact quiet_raise _ _

theorem quiet_getFrequency (cfg : Config) (first : Reg) : (getFrequency cfg first).Quiet (Result.endOf true) :=
  quiet_requireFxosc _ (quiet_requireReady (quiet_readWord _ fun _ => trivial))

theorem quiet_setGain (fd : Field) (code : Nat) : (setGain fd code).Quiet (Result.endOf true) :=
  quiet_requireReady (quiet_readModifyWrite _ _)

theorem quiet_enableBit (b : ModeBit) (on : Bool) : (enableBit b on).Quiet (Result.endOf true) :=
  quiet_requireReady (quiet_readModifyWrite _ _)

theorem quiet_writeMode (m : Byte) : (writeMode m).Quiet (Result.endOf true) :=
  quiet_requireReady (quiet_writeReg _ _ trivial)

theorem quiet_burstWrite (start : Nat) (values : List Byte) :
    (progBurstWrite start values).Quiet Result.membersReady := by
  refine quiet_requireSpi ?_
  split
  · exact quiet_raise _ _
  · exact quiet_requireRange _ _ (quiet_spiTransfer _ fun _ => trivial)

theorem quiet_burstRead (start : Nat) (count : Int) : (progBurstRead start count).Quiet Result.membersReady := by
  refine quiet_requireSpi ?_
  split
  · exact quiet_raise _ _
  · exact quiet_requireRange _ _ (quiet_spiTransfer _ fun _ => trivial)

theorem quiet_driveLine (pin : Pin) (level : Bool) {next : Nat → Prog}
    (h : ∀ slack, (next slack).Quiet Result.membersReady) :
    (driveLine pin level next).Quiet Result.membersReady := by
  refine ⟨rfl, fun r => ?_⟩
  dsimp only
  split
  · exact h _
  · exact quiet_raise _ _

theorem quiet_readLine (pin : Pin) : (readLine pin).Quiet Result.membersReady := by
  refine ⟨rfl, fun r => ?_⟩
  dsimp only
  split
  · trivial
  · exact quiet_raise _ _

theorem quiet_pulseReset : pulseReset.Quiet Result.membersReady :=
  quiet_requireGpio (quiet_driveLine _ _ fun _ => ⟨rfl, fun _ => quiet_driveLine _ _ fun _ =>
    ⟨rfl, fun _ => trivial⟩⟩)

theorem quiet_driveTxRx (level : Bool) : (driveTxRx level).Quiet Result.membersReady :=
  quiet_requireGpio (quiet_driveLine _ _ fun _ => trivial)

theorem quiet_readTxRx : readTxRx.Quiet Result.membersReady := quiet_requireGpio (quiet_readLine _)

end

/-! ### Every operation is quiet, or one uninterrupted part -/

theorem programOf_cases (cfg : Config) (i : Instr) :
    (programOf cfg i).Quiet (Result.endOf i.isController) ∨
      ∃ q, Part cfg (!i.isController) q ∧ programOf cfg i = .uninterrupted q := by
  cases i with
  | spiOpen => exact .inr ⟨_, .openTransport, rfl⟩
  | spiClose => exact .inr ⟨_, .closeTransport, rfl⟩
  | gpioOpen chip resetPin txRxPin => exact .inr ⟨_, .openSequencer chip resetPin txRxPin, rfl⟩
  | gpioClose => exact .inr ⟨_, .closeSequencer, rfl⟩
  | openController => exact .inr ⟨_, .openSession rfl, rfl⟩
  | closeController => exact .inr ⟨_, .closeSession rfl, rfl⟩
  | writeRegister a v => exact .inl (quiet_writeReg a v trivial)
  | readRegister a => exact .inl (quiet_returnReg a)
  | burstWrite start values => exact .inl (quiet_burstWrite start values)
  | burstRead start count => exact .inl (quiet_burstRead start count)
  | checkDevice => exact .inl (quiet_returnReg _)
  | reset => exact .inl quiet_pulseReset
  | setResetPin level => exact .inl (quiet_requireGpio (quiet_driveLine _ _ fun _ => trivial))
  | getResetPin => exact .inl (quiet_requireGpio (quiet_readLine _))
  | setTxRxPin level => exact .inl (quiet_driveTxRx level)
  | getTxRxPin => exact .inl quiet_readTxRx
  | setRxFrequency f => exact .inl (quiet_setFrequency cfg _ f)
  | setTxFrequency f => exact .inl (quiet_setFrequency cfg _ f)
  | getRxFrequency | getTxFrequency => exact .inl (quiet_getFrequency cfg _)
  | setLnaGain | setPgaGain | setDacGain | setMixerGain => exact .inl (quiet_setGain _ _)
  | enableRx on | enableTx on | enablePA on => exact .inl (quiet_enableBit _ on)
  | setMode m => exact .inl (quiet_writeMode m)
  | setModeSleep | setModeStandby | setModeRx | setModeTx | setModeTxFull | setModeFullDuplex =>
    exact .inl (quiet_writeMode _)
  | getMode | probe => exact .inl (quiet_requireReady (quiet_returnReg _))
  | getStatus | getVersion => exact .inl (quiet_requireReady (quiet_readReg _ fun _ => trivial))
  | setTxRxSwitch on => exact .inl (quiet_requireReady (quiet_driveTxRx on))
  | getTxRxSwitch => exact .inl (quiet_requireReady quiet_readTxRx)
  | resetDevice => exact .inl (quiet_requireReady quiet_pulseReset)
  | initializeWithDefaults => exact .inl (quiet_requireReady (quiet_writeTable _))

theorem turns_uninterrupted {W : Prog → Prop} {q : Prog} (h : W q) : (Prog.uninterrupted q).Turns W :=
  ⟨h, fun _ => trivial⟩

theorem turns_programOf (cfg : Config) (i : Instr) : (programOf cfg i).Turns (Part cfg (!i.isController)) := by
  rcases programOf_cases cfg i with hq | ⟨q, hpart, e⟩
  · exact hq.turns _
  · exact e ▸ turns_uninterrupted hpart

theorem turns_openSession (cfg : Config) : (openSession cfg).Turns (Part cfg false) :=
  turns_uninterrupted (.openSession rfl)

theorem turns_closeSession (cfg : Config) : closeSession.Turns (Part cfg false) :=
  turns_uninterrupted (.closeSession rfl)

/-- `scoped` of a controller operation is the controller's open, the operation, and its close (R208). -/
theorem turns_progScoped (cfg : Config) {i : Instr} (hctl : i.isController = true) :
    (progScoped cfg i).Turns (Part cfg false) := by
  have hop : (programOf cfg i).Turns (Part cfg false) := by simpa [hctl] using turns_programOf cfg i
  refine (turns_openSession cfg).bind fun o => ?_
  cases o with
  | err e => trivial
  | ok v =>
    refine hop.bind fun r => (turns_closeSession cfg).bind fun c => ?_
    cases r <;> cases c <;> trivial

/-- The turns of a call that a caller can present (R208). -/
theorem turns_programOfCall {cfg : Config} {c : Call} (h : ∀ i, c = .scoped i → i.isController = true) :
    (programOfCall cfg c).Turns (Part cfg c.usedAlone) := by
  rcases c with i | i
  · exact turns_programOf cfg i
  · exact turns_progScoped cfg (h i rfl)

/-! ### What the opens and closes end in -/

theorem ends_raise {kind : ErrorKind} (info : ErrorInfo) (h : kind ≠ .invalidState) :
    Prog.Ends (·.isReady = true) (·.isReady = true) (.raise kind info) :=
  Result.isReady_err.mpr ⟨h, List.not_mem_nil⟩

theorem ends_openTransport : Prog.Ends (·.isReady = true) (·.isReady = true) openTransport := by
  intro r
  dsimp only
  split
  · exact ends_raise _ (by decide)
  · intro r
    dsimp only
    split
    · exact fun _ => rfl
    · exact ends_raise _ (by decide)

theorem ends_closeTransport : Prog.Ends (·.isReady = true) (·.isReady = true) closeTransport := by
  intro r
  dsimp only
  split
  · intro r _
    dsimp only
    split
    · exact Result.isReady_ok _
    · exact ends_raise _ (by decide)
  · exact Result.isReady_ok _

theorem ends_openSequencer (chip : Path) (resetPin txRxPin : Nat) :
    Prog.Ends (·.isReady = true) (·.isReady = true) (openSequencer chip resetPin txRxPin) := by
  intro r
  dsimp only
  split
  · exact ends_raise _ (by decide)
  · intro r
    dsimp only
    split
    · exact ends_raise _ (by decide)
    · intro r
      dsimp only
      split
      · exact fun _ => ends_raise _ (by decide)
      · intro r
        dsimp only
        split
        · exact fun _ _ => ends_raise _ (by decide)
        · exact fun _ _ _ _ => rfl

theorem eq_transportFailure_of_mem_releaseError {r : Reply} {k : ErrorKind} (h : k ∈ releaseError r) :
    k = .transportFailure := by
  unfold releaseError at h
  split at h
  · cases h
  · exact List.mem_singleton.mp h

theorem ends_closeSequencer : Prog.Ends (·.isReady = true) (·.isReady = true) closeSequencer := by
  intro r
  dsimp only
  split
  · intro r₁ r₂ r₃ _
    have released : ∀ k ∈ releaseError r₁ ++ releaseError r₂ ++ releaseError r₃, k ≠ .invalidState := by
      intro k hk
      have : k = .transportFailure := by
        rcases List.mem_append.mp hk with hk | hk
        · rcases List.mem_append.mp hk with hk | hk <;> exact eq_transportFailure_of_mem_releaseError hk
        · exact eq_transportFailure_of_mem_releaseError hk
      simp [this]
    dsimp only
    split
    · exact Result.isReady_ok _
    · next e he => exact ends_raise _ (released e (he ▸ List.mem_singleton_self e))
    · exact isReady_composite fun hmem => released _ hmem rfl
  · exact Result.isReady_ok _

theorem ends_openSession (cfg : Config) : Prog.Ends (·.isReady = true) (·.isReady = true) (openSession cfg) := by
  refine ⟨fun r => ?_, fun _ h => h⟩
  dsimp only
  split
  · exact ends_raise _ (by decide)
  · refine ends_openTransport.bind fun r₁ _ => ?_
    cases r₁ with
    | err e => exact ends_raise _ (by decide)
    | ok v =>
      refine (ends_openSequencer _ _ _).bind fun r₂ _ => ?_
      cases r₂ with
      | err e => exact ends_closeTransport.bind fun _ _ => ends_raise _ (by decide)
      | ok v => exact fun _ => rfl

theorem ends_closeSession : Prog.Ends (·.isReady = true) (·.isReady = true) closeSession := by
  refine ⟨fun r => ?_, fun _ h => h⟩
  dsimp only
  split
  · refine Prog.Ends.bind (D := (·.isReady = true)) ?_ fun r h =>
      Result.isReady_inController (Result.membersReady_of_isReady h)
    refine ends_closeSequencer.bind fun r₁ h₁ => ends_closeTransport.bind fun r₂ h₂ _ => ?_
    dsimp only
    split
    · exact Result.isReady_ok _
    · refine isReady_composite fun hmem => ?_
      rcases List.mem_append.mp hmem with h | h
      · exact Result.not_mem_errors h₁ h
      · exact Result.not_mem_errors h₂ h
  · exact ends_raise _ (by decide)

theorem ends_part {cfg : Config} {alone : Bool} {q : Prog} (h : Part cfg alone q) :
    Prog.Ends (·.isReady = true) (·.isReady = true) q := by
  cases h with
  | openTransport => exact ends_openTransport
  | closeTransport => exact ends_closeTransport
  | openSequencer chip a b => exact ends_openSequencer chip a b
  | closeSequencer => exact ends_closeSequencer
  | openSession e => exact (e ▸ ends_openSession cfg : Prog.Ends _ _ (Prog.uninterrupted q)).1
  | closeSession e => exact (e ▸ ends_closeSession : Prog.Ends _ _ (Prog.uninterrupted q)).1

/-- No operation's uninterrupted part ends in `InvalidState`, and no controller operation does (R220). -/
theorem ends_programOf (cfg : Config) (i : Instr) :
    Prog.Ends (·.isReady = true) (Result.endOf i.isController) (programOf cfg i) := by
  rcases programOf_cases cfg i with hq | ⟨q, hpart, e⟩
  · exact hq.ends _
  · rw [e]
    refine ⟨ends_part hpart, fun r hr => ?_⟩
    cases i.isController with
    | true => exact hr
    | false => exact Result.membersReady_of_isReady hr

theorem ends_programOf_controller (cfg : Config) {i : Instr} (hctl : i.isController = true) :
    Prog.Ends (·.isReady = true) (·.isReady = true) (programOf cfg i) := by
  have h := ends_programOf cfg i
  rw [hctl] at h
  exact h

/-- `scoped` of a controller operation never ends in `InvalidState` either (R208, R220). -/
theorem ends_progScoped (cfg : Config) {i : Instr} (hctl : i.isController = true) :
    Prog.Ends (·.isReady = true) (·.isReady = true) (progScoped cfg i) := by
  refine (ends_openSession cfg).bind fun o ho => ?_
  cases o with
  | err e => exact ho
  | ok v =>
    refine (ends_programOf_controller cfg hctl).bind fun r hr => ends_closeSession.bind fun c hc => ?_
    cases r with
    | ok v =>
      cases c with
      | ok v' => exact Result.isReady_ok _
      | err e' => exact hc
    | err e =>
      cases c with
      | ok v' => exact hr
      | err e' =>
        refine isReady_composite fun hmem => ?_
        rcases List.mem_append.mp hmem with h | h
        · exact Error.not_mem_flatten hr h
        · exact Error.not_mem_flatten hc h

end Sys2Proof.Machine
end

section
/-! What the primitives, opens and closes do to the components they work on and to the driven lines (R26, R28 to
R30, R133, R140). -/

namespace Sys2Proof.Machine

/-! ### Line writes on the trace -/

/-- The line and level of a line write, where it succeeded. -/
def Event.written (ok : Bool) : Event → Option (Nat × Bool)
  | .lineSet line level => if ok then some (line, level) else none
  | _ => none

/-- The level of a line after some writes, from the given one. -/
def levelAfter (writes : List (Nat × Bool)) (line : Nat) (level : Bool) : Bool :=
  writes.foldl (fun b w => if w.1 = line then w.2 else b) level

@[simp] theorem levelAfter_nil (line : Nat) (level : Bool) : levelAfter [] line level = level := rfl

@[simp] theorem levelAfter_cons (w : Nat × Bool) (ws : List (Nat × Bool)) (line : Nat) (level : Bool) :
    levelAfter (w :: ws) line level = levelAfter ws line (if w.1 = line then w.2 else level) := rfl

@[simp] theorem levelAfter_append (ws ws' : List (Nat × Bool)) (line : Nat) (level : Bool) :
    levelAfter (ws ++ ws') line level = levelAfter ws' line (levelAfter ws line level) :=
  List.foldl_append

theorem lastDriven_eq_levelAfter (events : List Stamp) (line : Nat) (level : Bool) :
    lastDriven events line level = levelAfter (events.filterMap fun e => e.event.written e.ok) line level := by
  induction events generalizing level with
  | nil => rfl
  | cons e events ih =>
    have hcons : lastDriven (e :: events) line level = lastDriven events line
        (match e.event with
          | .lineSet l b => if decide (l = line) && e.ok then b else level
          | _ => level) := rfl
    rw [hcons, ih, List.filterMap_cons]
    cases hev : e.event <;> cases hok : e.ok <;> simp [Event.written]

/-- The trace has grown by events whose successful line writes are the given ones. -/
def Drove (s t : State) (writes : List (Nat × Bool)) : Prop :=
  ∃ new, t.trace = s.trace ++ new ∧ new.filterMap (fun e => e.event.written e.ok) = writes

theorem Drove.refl (s : State) : Drove s s [] := ⟨[], by simp⟩

theorem Drove.trans {s t u : State} {ws ws' : List (Nat × Bool)} (h : Drove s t ws) (h' : Drove t u ws') :
    Drove s u (ws ++ ws') := by
  obtain ⟨new, htrace, hwrites⟩ := h
  obtain ⟨new', htrace', hwrites'⟩ := h'
  exact ⟨new ++ new', by simp [htrace, htrace'], by simp [hwrites, hwrites']⟩

theorem Drove.of_trace {s t u : State} {ws : List (Nat × Bool)} (h : Drove s t ws) (e : u.trace = t.trace) :
    Drove s u ws := by
  obtain ⟨new, htrace, hwrites⟩ := h
  exact ⟨new, e.trans htrace, hwrites⟩

theorem Drove.emit {s t : State} {ws : List (Nat × Bool)} (h : Drove s t ws) (a b : Nat) (ev : Event) (ok : Bool) :
    Drove s (t.emit a b ev ok) (ws ++ (ev.written ok).toList) :=
  h.trans ⟨[⟨a, b, t.caller, ev, ok⟩], by simp, by cases hw : ev.written ok <;> simp [hw]⟩

theorem drove_attempted (s : State) (ev : Event) (ok : Bool) : Drove s (s.attempted ev ok) (ev.written ok).toList :=
  (Drove.refl s).emit _ _ ev ok

theorem drove_awaitBus (s : State) : Drove s s.consume.awaitBus [] := by
  unfold State.awaitBus
  split
  · exact (Drove.refl s.consume).emit _ _ (.gap gapNanos) true
  · exact .refl _

/-! ### What a run moves -/

/-- The run has left the components in its place as `ctl`, written the given lines, and kept the configuration. -/
structure Moved (s t : State) (ctl : Controller) (writes : List (Nat × Bool)) : Prop where
  cfg : t.cfg = s.cfg
  ctl : t.ctl = ctl
  drove : Drove s t writes

theorem Moved.refl (s : State) : Moved s s s.ctl [] := ⟨rfl, rfl, .refl s⟩

theorem Moved.trans {s t u : State} {c d : Controller} {ws ws' : List (Nat × Bool)} (h : Moved s t c ws)
    (h' : Moved t u d ws') : Moved s u d (ws ++ ws') :=
  ⟨h'.cfg.trans h.cfg, h'.ctl, h.drove.trans h'.drove⟩

/-- A primitive's outcome meets `Q` with its reply, or `S` where it stalls. -/
def Performed.Gives (Q : Reply → State → Prop) (S : State → Prop) : Performed → Prop
  | .replied r t => Q r t
  | .stalled t => S t

/-- A run's end meets `Q` with its result, or `S` where it stalls. -/
def Ran.Gives (Q : Result → State → Prop) (S : State → Prop) : Ran → Prop
  | .done r t => Q r t
  | .stalled t => S t
  | .refused _ => True

theorem Performed.gives_state {P : State → Prop} {p : Performed} : p.Gives (fun _ => P) P ↔ P p.state := by
  cases p <;> rfl

theorem Ran.gives_state {P : State → Prop} {x : Ran} :
    x.Gives (fun _ => P) P ↔ ∀ t, x.state? = some t → P t := by
  cases x <;> simp [Ran.Gives, Ran.state?]

theorem Ran.Gives.mono {Q Q' : Result → State → Prop} {S S' : State → Prop} {x : Ran} (h : x.Gives Q S)
    (hQ : ∀ r t, Q r t → Q' r t) (hS : ∀ t, S t → S' t) : x.Gives Q' S' := by
  cases x with
  | done r t => exact hQ r t h
  | stalled t => exact hS t h
  | refused e => trivial

theorem Prog.gives_act {Q : Result → State → Prop} {S : State → Prop} {Q₁ : Reply → State → Prop}
    {S₁ : State → Prop} {p : Prim} {k : Reply → Prog} {s : State} (hp : (p.perform s).Gives Q₁ S₁)
    (hk : ∀ r t, Q₁ r t → ((k r).run t).Gives Q S) (hS : ∀ t, S₁ t → S t) :
    ((Prog.act p k).run s).Gives Q S := by
  simp only [Prog.run]
  cases h : p.perform s with
  | replied r t => rw [h] at hp; exact hk r t hp
  | stalled t => rw [h] at hp; exact hS t hp

theorem Prog.gives_bind {Q Q₁ : Result → State → Prop} {S S₁ : State → Prop} {q : Prog} {f : Result → Prog}
    {s : State} (hq : (q.run s).Gives Q₁ S₁) (hf : ∀ r t, Q₁ r t → ((f r).run t).Gives Q S)
    (hS : ∀ t, S₁ t → S t) : ((q.bind f).run s).Gives Q S := by
  rw [Prog.run_bind]
  cases h : q.run s with
  | done r t => rw [h] at hq; exact hf r t hq
  | stalled t => rw [h] at hq; exact hS t hq
  | refused e => trivial

theorem SameFrame.of_done {q : Prog} {s t : State} {r : Result} (h : q.run s = .done r t) : SameFrame s t :=
  Prog.run_sameFrame (by rw [h]; rfl)

theorem SameFrame.of_stalled {q : Prog} {s t : State} (h : q.run s = .stalled t) : SameFrame s t :=
  Prog.run_sameFrame (by rw [h]; rfl)

/-! ### Primitives -/

/-- What a line or resource primitive gives, from what its three outcomes do. -/
theorem attempt_gives {possible : Bool} {ev : Event} {onOk onFail onStall : State → State} {s : State}
    {Q : Reply → State → Prop} {S : State → Prop}
    (hok : possible = true → ∀ r, r.isOk = true → Q r (onOk (s.attempted ev true)))
    (hfail : ∀ r, r.isOk = false → Q r (onFail (s.attempted ev false)))
    (hstall : S (onStall { s.consume with now := s.now + s.answer.before })) :
    (attempt possible ev onOk onFail onStall s).Gives Q S := by
  rcases attempt_cases possible ev onOk onFail onStall s with ⟨_, e⟩ | ⟨_, t, rfl, e⟩ | ⟨ha, hp, t, rfl, e⟩
  · rw [e]; exact hstall
  · rw [e]; exact hfail _ rfl
  · rw [e]; exact hok hp _ (by simp [Reply.isOk, ha])

/-- What a primitive gives that opens or releases a whole resource, its success moving the components as told. -/
theorem attempt_moved {ev : Event} {onOk : State → State} {s : State} {ctl : Controller}
    (hev : ∀ ok, ev.written ok = none) (hcfg : (onOk (s.attempted ev true)).cfg = s.cfg)
    (hctl : (onOk (s.attempted ev true)).ctl = ctl)
    (htrace : (onOk (s.attempted ev true)).trace = (s.attempted ev true).trace) :
    (attempt true ev onOk id id s).Gives
      (fun r t => Moved s t (if r.isOk then ctl else s.ctl) []) (fun t => Moved s t s.ctl []) := by
  have drove : ∀ ok, Drove s (s.attempted ev ok) [] := fun ok => by simpa [hev] using drove_attempted s ev ok
  refine attempt_gives (fun _ r hr => ?_) (fun r hr => ?_) ⟨rfl, rfl, .refl s⟩
  · rw [if_pos hr]
    exact ⟨hcfg, hctl, (drove true).of_trace htrace⟩
  · rw [hr]
    exact ⟨rfl, rfl, drove false⟩

/-- The SPI handle is opened, with its settings (R26, R131). -/
theorem gives_spiOpen (s : State) :
    (Prim.spiOpen.perform s).Gives
      (fun r t => Moved s t (if r.isOk then s.configureSpi.ctl else s.ctl) []) (fun t => Moved s t s.ctl []) := by
  simp only [Prim.perform]
  exact attempt_moved (fun _ => rfl) rfl rfl rfl

theorem gives_spiRelease (s : State) :
    (Prim.spiRelease.perform s).Gives (fun _ t => Moved s t s.ctl []) (fun t => Moved s t s.ctl []) := by
  simpa [Prim.perform] using attempt_moved (ev := .spiRelease) (onOk := id) (s := s) (fun _ => rfl) rfl rfl rfl

theorem gives_chipOpen (chip : Path) (s : State) :
    ((Prim.chipOpen chip).perform s).Gives
      (fun r t => Moved s t (if r.isOk then (s.setChip chip).ctl else s.ctl) []) (fun t => Moved s t s.ctl []) := by
  simp only [Prim.perform]
  exact attempt_moved (fun _ => rfl) rfl rfl rfl

theorem gives_chipRelease (s : State) :
    (Prim.chipRelease.perform s).Gives (fun _ t => Moved s t s.ctl []) (fun t => Moved s t s.ctl []) := by
  simpa [Prim.perform] using attempt_moved (ev := .chipRelease) (onOk := id) (s := s) (fun _ => rfl) rfl rfl rfl

/-- A line that no sequencer holds is requested and driven low (R133). -/
theorem gives_lineRequest (line : Nat) (s : State) :
    ((Prim.lineRequest line).perform s).Gives
      (fun r t => if r.isOk then line ∉ s.ctl.gpio.lines ∧
          Moved s t (s.setLines (line :: s.ctl.gpio.lines)).ctl [(line, false)]
        else Moved s t s.ctl [])
      (fun t => Moved s t s.ctl []) := by
  simp only [Prim.perform]
  refine attempt_gives (fun hfree r hr => ?_) (fun r hr => ?_) ?_
  · rw [if_pos hr]
    have hfree' : line ∉ s.ctl.gpio.lines := by
      intro hmem
      simp [State.lineHeld, hmem] at hfree
    refine ⟨hfree', by simp, by simp; rfl, Drove.of_trace ?_ (State.wire_trace _ _ _ _)⟩
    exact ((drove_attempted s (.lineRequest line) true).of_trace (by rfl)).emit _ _ (.lineSet line false) true
  · rw [hr]
    exact ⟨rfl, rfl, drove_attempted s (.lineRequest line) false⟩
  · dsimp only
    split
    · exact ⟨rfl, rfl, .refl s⟩
    · exact ⟨by simp, by simp, (Drove.refl s).of_trace (by simp)⟩

/-- A released line is held no more, and the sequencer is as before else (R146). -/
theorem gives_lineRelease (line : Nat) (s : State) :
    ((Prim.lineRelease line).perform s).Gives
      (fun _ t => Moved s t (s.setLines (s.ctl.gpio.lines.erase line)).ctl []) (fun t => Moved s t s.ctl []) := by
  have released : ∀ ok, Moved s
      (((s.attempted (.lineRelease line) ok).setLines (s.ctl.gpio.lines.erase line)).floatLine line s.answer.level)
      (s.setLines (s.ctl.gpio.lines.erase line)).ctl [] := fun ok =>
    ⟨by simp, by simp; rfl, (drove_attempted s (.lineRelease line) ok).of_trace (by simp)⟩
  simp only [Prim.perform]
  exact attempt_gives (fun _ _ _ => released true) (fun _ _ => released false)
    ⟨by simp, by simp, (Drove.refl s).of_trace (by simp)⟩

/-- What a quiet primitive can do: nothing to the components and lines, or a line write with its field (R29,
R30). -/
theorem perform_quiet {p : Prim} (hp : p.isQuiet = true) (s : State) :
    Moved s (p.perform s).state s.ctl [] ∨
      ∃ pin level, Moved s (p.perform s).state (Write.apply s.ctl (.gpioLevel pin level))
        [(s.ctl.gpio.line pin, level)] := by
  cases p with
  | look => exact .inl (.refl s)
  | gap slack => exact .inl ⟨rfl, rfl, (Drove.refl s).emit _ _ (.gap gapNanos) true⟩
  | hold t slack => exact .inl ⟨rfl, rfl, (Drove.refl s).emit _ _ (.hold t) true⟩
  | xfer tx =>
    refine .inl ?_
    simp only [Prim.perform]
    rcases exchange_cases tx s with ⟨_, e⟩ | ⟨_, e⟩ | ⟨_, rx, _, e⟩ <;> rw [e]
    · exact ⟨by simp, by simp, (drove_awaitBus s).of_trace rfl⟩
    · exact ⟨by simp, by simp, ((drove_awaitBus s).emit _ _ (.xfer tx s.answer.rx) false).of_trace rfl⟩
    · exact ⟨by simp, by simp, ((drove_awaitBus s).emit _ _ (.xfer tx rx) true).of_trace rfl⟩
  | lineGet pin =>
    refine .inl ?_
    simp only [Prim.perform]
    rcases getLine_cases s with e | ⟨_, e⟩ <;> rw [e] <;> exact ⟨rfl, rfl, .refl s⟩
  | lineSet pin level =>
    simp only [Prim.perform]
    rcases setLine_cases pin level s with ⟨_, e⟩ | ⟨_, t, rfl, e⟩ | ⟨_, _, t, rfl, e⟩ <;> rw [e]
    · exact .inl ⟨by simp, by simp, (Drove.refl s).of_trace (by simp)⟩
    · exact .inl ⟨by simp, by simp, (drove_attempted s (.lineSet _ level) false).of_trace (by simp; rfl)⟩
    · exact .inr ⟨pin, level, by simp, by simp,
        (drove_attempted s (.lineSet _ level) true).of_trace (by simp; rfl)⟩
  | assign | spiOpen | spiRelease | chipOpen | lineRequest | lineRelease | chipRelease => cases hp

/-! ### Opens and closes -/

/-- A transport just after an open, with the handle of R26. -/
def Transport.afterOpen (cfg : Config) : Transport := ⟨true, cfg.spiDevice, 0, 8, cfg.spiSpeedHz⟩

/-- A sequencer just after an open: it holds its two lines, and both are low (R28 to R30, R133). -/
def Gpio.afterOpen (g : Gpio) (chip : Path) (resetPin txRxPin : Nat) : Gpio :=
  ⟨true, chip, txRxPin :: resetPin :: g.lines, resetPin, txRxPin, false, false⟩

/-- The run has left the sequencer closed, and the controller's phase and transport as before. -/
structure SequencerClosed (s t : State) : Prop where
  cfg : t.cfg = s.cfg
  phase : t.ctl.phase = s.ctl.phase
  spi : t.ctl.spi = s.ctl.spi
  gpio : t.ctl.gpio.isOpen = false
  drove : ∃ ws, Drove s t ws

theorem SequencerClosed.refl {s : State} (h : s.ctl.gpio.isOpen = false) : SequencerClosed s s :=
  ⟨rfl, rfl, rfl, h, [], .refl s⟩

theorem SequencerClosed.trans {s t u : State} {c : Controller} {ws : List (Nat × Bool)} (h : SequencerClosed s t)
    (hm : Moved t u c ws) (hphase : c.phase = t.ctl.phase) (hspi : c.spi = t.ctl.spi)
    (hgpio : c.gpio.isOpen = t.ctl.gpio.isOpen) : SequencerClosed s u := by
  obtain ⟨hcfg, rfl, hdrove⟩ := hm
  obtain ⟨ws', hdrove'⟩ := h.drove
  exact ⟨hcfg.trans h.cfg, hphase.trans h.phase, hspi.trans h.spi, hgpio.trans h.gpio, _, hdrove'.trans hdrove⟩

theorem gives_openTransport (s : State) :
    (openTransport.run s).Gives
      (fun r t => (∃ v, r = .ok v) ∧ Moved s t { s.ctl with spi := Transport.afterOpen s.cfg } [] ∨
        (∃ e, r = .err e) ∧ Moved s t s.ctl [])
      (fun t => Moved s t s.ctl []) := by
  rw [openTransport, Prog.run_look]
  split
  · exact .inr ⟨⟨_, rfl⟩, .refl s⟩
  · refine Prog.gives_act (gives_spiOpen s) (fun r t ht => ?_) fun t ht => ht
    split
    · next hr =>
      rw [if_pos hr] at ht
      refine .inl ⟨⟨_, rfl⟩, ht.cfg, ?_, ht.drove⟩
      simp [ht.ctl, State.configureSpi, Write.apply, Transport.afterOpen]
    · next hr =>
      rw [if_neg hr] at ht
      exact .inr ⟨⟨_, rfl⟩, ht⟩

theorem gives_closeTransport (s : State) :
    (closeTransport.run s).Gives
      (fun _ t => Moved s t { s.ctl with spi := { s.ctl.spi with isOpen := false } } [])
      (fun t => Moved s t s.ctl []) := by
  rw [closeTransport, Prog.run_look]
  split
  · refine Prog.gives_act (gives_spiRelease s) (fun r t ht => ?_) fun t ht => ht
    have closed : Moved s { t with ctl := Write.apply t.ctl (.spiOpen false) }
        { s.ctl with spi := { s.ctl.spi with isOpen := false } } [] :=
      ⟨ht.cfg, by rw [ht.ctl]; rfl, ht.drove⟩
    rw [Prog.run_assign]
    split <;> exact closed
  · next h =>
    have hspi : s.ctl.spi = { s.ctl.spi with isOpen := false } := by
      rw [← Bool.eq_false_iff.mpr h]
    exact ⟨rfl, by rw [← hspi], .refl s⟩

/-- `gpioOpen` (R133): it holds two different lines and both are low, or it has left an open sequencer as it was, or
the sequencer is closed. -/
theorem gives_openSequencer (chip : Path) (resetPin txRxPin : Nat) (s : State) :
    ((openSequencer chip resetPin txRxPin).run s).Gives
      (fun r t => (∃ v, r = .ok v) ∧ resetPin ≠ txRxPin ∧
          Moved s t { s.ctl with gpio := s.ctl.gpio.afterOpen chip resetPin txRxPin }
            [(resetPin, false), (txRxPin, false)] ∨
        (∃ e, r = .err e) ∧ (Moved s t s.ctl [] ∨ SequencerClosed s t))
      (SequencerClosed s) := by
  rw [openSequencer, Prog.run_look]
  split
  · exact .inr ⟨⟨_, rfl⟩, .inl (.refl s)⟩
  · next hopen =>
    have closed₀ := SequencerClosed.refl (Bool.eq_false_iff.mpr hopen)
    refine Prog.gives_act (gives_chipOpen chip s) (fun r₁ t₁ h₁ => ?_) fun t ht => closed₀.trans ht rfl rfl rfl
    split
    · next hr =>
      rw [if_neg (by simpa using hr)] at h₁
      exact .inr ⟨⟨_, rfl⟩, .inr (closed₀.trans h₁ rfl rfl rfl)⟩
    · next hr =>
      rw [if_pos (by simpa using hr)] at h₁
      have closed₁ := closed₀.trans h₁ rfl rfl rfl
      refine Prog.gives_act (gives_lineRequest resetPin t₁) (fun r₂ t₂ h₂ => ?_)
        fun t ht => closed₁.trans ht rfl rfl rfl
      split
      · next hr =>
        rw [if_neg (by simpa using hr)] at h₂
        have closed₂ := closed₁.trans h₂ rfl rfl rfl
        exact Prog.gives_act (gives_chipRelease t₂)
          (fun _ t ht => .inr ⟨⟨_, rfl⟩, .inr (closed₂.trans ht rfl rfl rfl)⟩)
          fun t ht => closed₂.trans ht rfl rfl rfl
      · next hr =>
        rw [if_pos (by simpa using hr)] at h₂
        have closed₂ := closed₁.trans h₂.2 rfl rfl rfl
        refine Prog.gives_act (gives_lineRequest txRxPin t₂) (fun r₃ t₃ h₃ => ?_)
          fun t ht => closed₂.trans ht rfl rfl rfl
        split
        · next hr =>
          rw [if_neg (by simpa using hr)] at h₃
          have closed₃ := closed₂.trans h₃ rfl rfl rfl
          refine Prog.gives_act (gives_lineRelease resetPin t₃) (fun _ t₄ h₄ => ?_)
            fun t ht => closed₃.trans ht rfl rfl rfl
          have closed₄ := closed₃.trans h₄ rfl rfl rfl
          exact Prog.gives_act (gives_chipRelease t₄)
            (fun _ t ht => .inr ⟨⟨_, rfl⟩, .inr (closed₄.trans ht rfl rfl rfl)⟩)
            fun t ht => closed₄.trans ht rfl rfl rfl
        · next hr =>
          rw [if_pos (by simpa using hr)] at h₃
          obtain ⟨hfree, h₃⟩ := h₃
          have hctl := h₃.ctl
          have hfree₂ := hfree
          simp only [h₂.2.ctl, h₁.ctl, State.setLines, State.setChip] at hctl hfree₂
          have hne : resetPin ≠ txRxPin := fun e => hfree₂ (by simp [e])
          refine .inl ⟨⟨_, rfl⟩, hne, (h₁.trans (h₂.2.trans h₃)).cfg, ?_, (h₁.trans (h₂.2.trans h₃)).drove⟩
          simp [hctl, Write.apply, Gpio.afterOpen]

/-- `gpioClose` (R140): the sequencer is closed, whatever fails; a stall leaves it open, with its levels. -/
theorem gives_closeSequencer (s : State) :
    (closeSequencer.run s).Gives (fun _ t => SequencerClosed s t)
      (fun t => ∃ lines, Moved s t { s.ctl with gpio := { s.ctl.gpio with lines := lines } } []) := by
  rw [closeSequencer, Prog.run_look]
  split
  · refine Prog.gives_act (gives_lineRelease _ s) (fun r₁ t₁ h₁ => ?_) fun t ht => ⟨_, ht⟩
    refine Prog.gives_act (gives_lineRelease _ t₁) (fun r₂ t₂ h₂ => ?_) fun t ht => ⟨_, h₁.ctl ▸ h₁.trans ht⟩
    have released : ∃ lines, Moved s t₂ { s.ctl with gpio := { s.ctl.gpio with lines := lines } } [] := by
      have h := h₁.trans h₂
      simp only [State.setLines, h₁.ctl] at h
      exact ⟨_, h⟩
    obtain ⟨lines, h₂⟩ := released
    refine Prog.gives_act (gives_chipRelease t₂) (fun r₃ t₃ h₃ => ?_) fun t ht => ⟨lines, h₂.ctl ▸ h₂.trans ht⟩
    have h := h₂.trans h₃
    have closed : SequencerClosed s { t₃ with ctl := Write.apply t₃.ctl (.gpioOpen false) } :=
      ⟨h.cfg, by simp [h.ctl, h₂.ctl, Write.apply], by simp [h.ctl, h₂.ctl, Write.apply], rfl, _, h.drove⟩
    rw [Prog.run_assign]
    split <;> exact closed
  · next h => exact .refl (Bool.eq_false_iff.mpr h)

end Sys2Proof.Machine
end

section
/-! What every turn of a call keeps, and so every run (R26, R28 to R30, R64): the phase of a controller that is not
in use, the whole controller, the handles, and the driven levels. -/

namespace Sys2Proof.Machine

/-! ### Invariants of the turns -/

namespace Prog

/-- The program keeps `P`, and leaves `S` where it stalls. -/
def Keeps (P S : State → Prop) (q : Prog) : Prop := ∀ s, P s → (q.run s).Gives (fun _ => P) S

/-- What every turn of a program keeps, its run keeps. -/
theorem Turns.keeps {W : Prog → Prop} {P S : State → Prop}
    (hquiet : ∀ p : Prim, p.isQuiet = true → ∀ s, P s → (p.perform s).Gives (fun _ => P) S)
    (hpart : ∀ q, W q → q.Keeps P S) {q : Prog} (hq : q.Turns W) : q.Keeps P S := by
  induction q with
  | done r => exact fun s hs => hs
  | refuse r => exact fun s _ => trivial
  | act p k ih => exact fun s hs => gives_act (hquiet p hq.1 s hs) (fun r t ht => ih r (hq.2 r) t ht) fun _ h => h
  | whole q k _ ih =>
    intro s hs
    have hrun := hpart q hq.1 s hs
    simp only [run]
    cases h : q.run s with
    | done r t => rw [h] at hrun; exact ih r (hq.2 r) t hrun
    | stalled t => rw [h] at hrun; exact hrun
    | refused e => trivial

theorem Keeps.bind {P S : State → Prop} {q : Prog} {f : Result → Prog} (hq : q.Keeps P S)
    (hf : ∀ r, (f r).Keeps P S) : (q.bind f).Keeps P S :=
  fun s hs => gives_bind (hq s hs) (fun r t ht => hf r t ht) fun _ h => h

theorem Keeps.uninterrupted {P S : State → Prop} {q : Prog} : (Prog.uninterrupted q).Keeps P S ↔ q.Keeps P S := by
  simp only [Keeps, run_uninterrupted]

end Prog

section
variable {cfg : Config} {alone : Bool} {P S : State → Prop}

theorem keeps_openSession (hopenSpi : openTransport.Keeps P S) (hcloseSpi : closeTransport.Keeps P S)
    (hopenGpio : (openSequencer cfg.gpioChip cfg.resetLine cfg.txrxLine).Keeps P S)
    (hphase : ∀ s p, P s → P (s.write (.phase p))) : (openSession cfg).Keeps P S := by
  refine Prog.Keeps.uninterrupted.mpr fun s hs => ?_
  rw [Prog.run_look]
  split
  · exact hs
  · refine hopenSpi.bind (fun r₁ => ?_) s hs
    cases r₁ with
    | err e => exact fun _ h => h
    | ok v =>
      refine hopenGpio.bind fun r₂ => ?_
      cases r₂ with
      | err e =>
        refine hcloseSpi.bind fun _ => ?_
        exact fun _ h => h
      | ok v => exact fun t ht => hphase t .ready ht

theorem keeps_closeSession (hcloseSpi : closeTransport.Keeps P S) (hcloseGpio : closeSequencer.Keeps P S)
    (hphase : ∀ s p, P s → P (s.write (.phase p))) : closeSession.Keeps P S := by
  refine Prog.Keeps.uninterrupted.mpr fun s hs => ?_
  rw [requireReady, Prog.run_look]
  split
  · refine Prog.Keeps.bind (hcloseGpio.bind fun r₁ => hcloseSpi.bind fun r₂ t ht => ?_) (fun r => ?_) s hs
    · rw [Prog.run_assign]
      split <;> exact hphase t .notReady ht
    · exact fun _ h => h
  · exact hs

/-- What the opens and closes of a transport and a sequencer keep, and a controller's change of phase, every
uninterrupted part keeps. -/
theorem keeps_part (hopenSpi : openTransport.Keeps P S) (hcloseSpi : closeTransport.Keeps P S)
    (hopenGpio : ∀ chip resetPin txRxPin,
      (alone = false → chip = cfg.gpioChip ∧ resetPin = cfg.resetLine ∧ txRxPin = cfg.txrxLine) →
        (openSequencer chip resetPin txRxPin).Keeps P S)
    (hcloseGpio : closeSequencer.Keeps P S)
    (hphase : alone = false → ∀ s p, P s → P (s.write (.phase p))) {q : Prog} (hq : Part cfg alone q) :
    q.Keeps P S := by
  cases hq with
  | openTransport => exact hopenSpi
  | closeTransport => exact hcloseSpi
  | openSequencer chip a b => exact hopenGpio chip a b nofun
  | closeSequencer => exact hcloseGpio
  | openSession e =>
    exact Prog.Keeps.uninterrupted.mp
      (e ▸ keeps_openSession hopenSpi hcloseSpi (hopenGpio _ _ _ fun _ => ⟨rfl, rfl, rfl⟩) (hphase rfl))
  | closeSession e =>
    exact Prog.Keeps.uninterrupted.mp (e ▸ keeps_closeSession hcloseSpi hcloseGpio (hphase rfl))

end

/-! ### The phase of a controller whose components are not in use (R212) -/

/-- A call on the components used alone leaves the controller's phase. -/
theorem keeps_phase_of_alone {cfg : Config} (ph : Phase) {q : Prog} (hq : q.Turns (Part cfg true)) :
    q.Keeps (fun u => u.ctl.phase = ph) (fun u => u.ctl.phase = ph) := by
  have move : ∀ {s t c ws}, Moved s t c ws → c.phase = s.ctl.phase → s.ctl.phase = ph → t.ctl.phase = ph :=
    fun hm hc hs => (congrArg Controller.phase hm.ctl).trans (hc.trans hs)
  refine hq.keeps (fun p hp s hs => ?_) fun q hpart => keeps_part ?_ ?_ (fun chip a b _ => ?_) ?_ nofun hpart
  · refine Performed.gives_state.mpr ?_
    rcases perform_quiet hp s with hm | ⟨pin, level, hm⟩
    · exact move hm rfl hs
    · exact move hm (by cases pin <;> rfl) hs
  · refine fun s hs => (gives_openTransport s).mono ?_ fun t hm => move hm rfl hs
    rintro r t (⟨_, hm⟩ | ⟨_, hm⟩)
    · exact move hm rfl hs
    · exact move hm rfl hs
  · exact fun s hs => (gives_closeTransport s).mono (fun _ _ hm => move hm rfl hs) fun _ hm => move hm rfl hs
  · refine fun s hs => (gives_openSequencer chip a b s).mono ?_ fun t hc => hc.phase.trans hs
    rintro r t (⟨_, _, hm⟩ | ⟨_, hm | hc⟩)
    · exact move hm rfl hs
    · exact move hm rfl hs
    · exact hc.phase.trans hs
  · refine fun s hs => (gives_closeSequencer s).mono (fun _ _ hc => hc.phase.trans hs) ?_
    rintro t ⟨lines, hm⟩
    exact move hm rfl hs

/-! ### The whole controller (R64) -/

theorem Controller.isWhole_iff {c : Controller} :
    c.isWhole = true ↔ c.spi.isOpen = decide (c.phase = .ready) ∧ c.gpio.isOpen = decide (c.phase = .ready) := by
  simp [Controller.isWhole]

theorem Controller.isWhole_closed {c : Controller} (hphase : c.phase ≠ .ready) :
    c.isWhole = true ↔ c.spi.isOpen = false ∧ c.gpio.isOpen = false := by
  simp [Controller.isWhole_iff, hphase]

theorem isWhole_openSession (cfg : Config) :
    (openSession cfg).Keeps (fun u => u.ctl.isWhole = true) (fun _ => True) := by
  refine Prog.Keeps.uninterrupted.mpr fun s hs => ?_
  rw [Prog.run_look]
  split
  · exact hs
  · next hphase =>
    obtain ⟨hspi, hgpio⟩ := (Controller.isWhole_closed hphase).mp hs
    refine Prog.gives_bind (gives_openTransport s) ?_ fun _ _ => trivial
    rintro r₁ t₁ (⟨⟨v, rfl⟩, h₁⟩ | ⟨⟨e, rfl⟩, h₁⟩)
    · refine Prog.gives_bind (gives_openSequencer _ _ _ t₁) ?_ fun _ _ => trivial
      rintro r₂ t₂ (⟨⟨v, rfl⟩, _, h₂⟩ | ⟨⟨e, rfl⟩, h₂⟩)
      · show Controller.isWhole (Write.apply t₂.ctl (.phase .ready)) = true
        simp [h₂.ctl, h₁.ctl, Write.apply, Controller.isWhole, Transport.afterOpen, Gpio.afterOpen]
      · have hphase₂ : t₂.ctl.phase ≠ .ready := by
          rcases h₂ with h₂ | h₂
          · simpa [h₂.ctl, h₁.ctl] using hphase
          · simpa [h₂.phase, h₁.ctl] using hphase
        have hgpio₂ : t₂.ctl.gpio.isOpen = false := by
          rcases h₂ with h₂ | h₂
          · simpa [h₂.ctl, h₁.ctl] using hgpio
          · exact h₂.gpio
        refine Prog.gives_bind (gives_closeTransport t₂) (fun r₃ t₃ h₃ => ?_) fun _ _ => trivial
        show t₃.ctl.isWhole = true
        rw [h₃.ctl]
        exact (Controller.isWhole_closed (c := { t₂.ctl with spi := { t₂.ctl.spi with isOpen := false } })
          hphase₂).mpr ⟨rfl, hgpio₂⟩
    · show t₁.ctl.isWhole = true
      rw [h₁.ctl]
      exact hs

theorem isWhole_closeSession : closeSession.Keeps (fun u => u.ctl.isWhole = true) (fun _ => True) := by
  refine Prog.Keeps.uninterrupted.mpr fun s hs => ?_
  rw [requireReady, Prog.run_look]
  split
  · refine Prog.gives_bind (Q₁ := fun _ u => u.ctl.isWhole = true) (S₁ := fun _ => True) ?_ (fun _ _ h => h)
      fun _ _ => trivial
    refine Prog.gives_bind (gives_closeSequencer s) (fun r₁ t₁ h₁ => ?_) fun _ _ => trivial
    refine Prog.gives_bind (gives_closeTransport t₁) (fun r₂ t₂ h₂ => ?_) fun _ _ => trivial
    have closed : (Write.apply t₂.ctl (.phase .notReady)).isWhole = true := by
      simp [h₂.ctl, Write.apply, Controller.isWhole, h₁.gpio]
    rw [Prog.run_assign]
    split <;> exact closed
  · exact hs

/-- A controller's call leaves it whole where it found it so (R64). -/
theorem keeps_isWhole {cfg : Config} {q : Prog} (hq : q.Turns (Part cfg false)) :
    q.Keeps (fun u => u.ctl.isWhole = true) (fun _ => True) := by
  refine hq.keeps (fun p hp s hs => ?_) fun q hpart => ?_
  · have h : (p.perform s).state.ctl.isWhole = true := by
      rcases perform_quiet hp s with hm | ⟨pin, level, hm⟩
      · rw [hm.ctl]; exact hs
      · rw [hm.ctl]; cases pin <;> exact hs
    cases hperform : p.perform s with
    | replied r t => rw [hperform] at h; exact h
    | stalled t => trivial
  · cases hpart with
    | openSession e => exact Prog.Keeps.uninterrupted.mp (e ▸ isWhole_openSession cfg)
    | closeSession e => exact Prog.Keeps.uninterrupted.mp (e ▸ isWhole_closeSession)

/-! ### Handles (R26, R28, R133) -/

/-- The components in use hold their handles under a configuration, a controller's the configured ones. -/
structure Held (cfg : Config) (alone : Bool) (u : State) : Prop where
  config : u.cfg = cfg
  spi : u.ctl.spi.handleHeld cfg = true
  lines : u.ctl.gpio.linesHeld = true
  wired : alone = false → u.ctl.gpio.isOpen = true → u.ctl.gpio.isWired cfg = true

theorem linesHeld_closed {g : Gpio} (h : g.isOpen = false) : g.linesHeld = true := by simp [Gpio.linesHeld, h]

theorem linesHeld_afterOpen (g : Gpio) (chip : Path) {resetPin txRxPin : Nat} (h : resetPin ≠ txRxPin) :
    (g.afterOpen chip resetPin txRxPin).linesHeld = true := by
  simp [Gpio.linesHeld, Gpio.afterOpen, h]

section
variable {cfg : Config} {alone : Bool}

theorem Held.of_same {s t : State} (h : Held cfg alone s) (hcfg : t.cfg = s.cfg) (hspi : t.ctl.spi = s.ctl.spi)
    (hgpio : t.ctl.gpio = s.ctl.gpio) : Held cfg alone t :=
  ⟨hcfg.trans h.config, hspi ▸ h.spi, hgpio ▸ h.lines, hgpio ▸ h.wired⟩

theorem Held.of_closed {s t : State} (h : Held cfg alone s) (hc : SequencerClosed s t) : Held cfg alone t :=
  ⟨hc.cfg.trans h.config, hc.spi ▸ h.spi, linesHeld_closed hc.gpio, fun _ ho => by simp [hc.gpio] at ho⟩

theorem held_openTransport : openTransport.Keeps (Held cfg alone) (fun _ => True) := by
  refine fun s hs => (gives_openTransport s).mono ?_ fun _ _ => trivial
  rintro r t (⟨_, hm⟩ | ⟨_, hm⟩)
  · refine ⟨hm.cfg.trans hs.config, ?_, by rw [hm.ctl]; exact hs.lines, by rw [hm.ctl]; exact hs.wired⟩
    simp [hm.ctl, Transport.handleHeld, Transport.afterOpen, hs.config]
  · exact hs.of_same hm.cfg (congrArg Controller.spi hm.ctl) (congrArg Controller.gpio hm.ctl)

theorem held_closeTransport : closeTransport.Keeps (Held cfg alone) (fun _ => True) := by
  refine fun s hs => (gives_closeTransport s).mono (fun _ t hm => ?_) fun _ _ => trivial
  refine ⟨hm.cfg.trans hs.config, ?_, by rw [hm.ctl]; exact hs.lines, by rw [hm.ctl]; exact hs.wired⟩
  simp [hm.ctl, Transport.handleHeld]

theorem held_openSequencer {chip : Path} {resetPin txRxPin : Nat}
    (h : alone = false → chip = cfg.gpioChip ∧ resetPin = cfg.resetLine ∧ txRxPin = cfg.txrxLine) :
    (openSequencer chip resetPin txRxPin).Keeps (Held cfg alone) (fun _ => True) := by
  refine fun s hs => (gives_openSequencer chip resetPin txRxPin s).mono ?_ fun _ _ => trivial
  rintro r t (⟨_, hne, hm⟩ | ⟨_, hm | hc⟩)
  · refine ⟨hm.cfg.trans hs.config, by rw [hm.ctl]; exact hs.spi, ?_, fun halone _ => ?_⟩
    · rw [hm.ctl]; exact linesHeld_afterOpen _ _ hne
    · obtain ⟨rfl, rfl, rfl⟩ := h halone
      simp [hm.ctl, Gpio.isWired, Gpio.afterOpen, hne]
  · exact hs.of_same hm.cfg (congrArg Controller.spi hm.ctl) (congrArg Controller.gpio hm.ctl)
  · exact hs.of_closed hc

theorem held_closeSequencer : closeSequencer.Keeps (Held cfg alone) (fun _ => True) :=
  fun s hs => (gives_closeSequencer s).mono (fun _ _ hc => hs.of_closed hc) fun _ _ => trivial

/-- A quiet primitive moves no handle. -/
theorem Held.perform {p : Prim} (hp : p.isQuiet = true) {s : State} (hs : Held cfg alone s) :
    Held cfg alone (p.perform s).state := by
  rcases perform_quiet hp s with hm | ⟨pin, level, hm⟩
  · exact hs.of_same hm.cfg (congrArg Controller.spi hm.ctl) (congrArg Controller.gpio hm.ctl)
  · cases pin <;>
      exact ⟨hm.cfg.trans hs.config, by rw [hm.ctl]; exact hs.spi, by rw [hm.ctl]; exact hs.lines,
        by rw [hm.ctl]; exact hs.wired⟩

/-- A call that returns leaves the components in use with their handles where it found them so (R26, R28). -/
theorem keeps_held {q : Prog} (hq : q.Turns (Part cfg alone)) : q.Keeps (Held cfg alone) (fun _ => True) := by
  refine hq.keeps (fun p hp s hs => ?_) fun q hpart => keeps_part held_openTransport held_closeTransport
    (fun _ _ _ h => held_openSequencer h) held_closeSequencer
    (fun _ s p h => h.of_same rfl rfl rfl) hpart
  have h := hs.perform hp
  cases hperform : p.perform s with
  | replied r t => rw [hperform] at h; exact h
  | stalled t => trivial

end

/-! ### Driven levels (R29, R30) -/

/-- Since `s` the levels of an open sequencer are those last driven on its two lines, low after an open. -/
def LevelsDriven (s u : State) : Prop :=
  ∃ ws, Drove s u ws ∧ (u.ctl.gpio.isOpen = true → u.ctl.gpio.resetLine ≠ u.ctl.gpio.txrxLine →
    ∀ pin, u.ctl.gpio.level pin
      = levelAfter ws (u.ctl.gpio.line pin) (s.ctl.gpio.isOpen && s.ctl.gpio.level pin))

theorem LevelsDriven.refl (s : State) : LevelsDriven s s :=
  ⟨[], .refl s, fun hopen _ pin => by simp [hopen]⟩

section
variable {s u v : State} {c : Controller}

/-- A run that writes no line and leaves the sequencer but for the lines it holds. -/
theorem LevelsDriven.trans_same (h : LevelsDriven s u) (hm : Moved u v c [])
    (hopen : c.gpio.isOpen = u.ctl.gpio.isOpen) (hline : c.gpio.line = u.ctl.gpio.line)
    (hlevel : c.gpio.level = u.ctl.gpio.level) : LevelsDriven s v := by
  obtain ⟨ws, hdrove, hlevels⟩ := h
  obtain ⟨-, rfl, hdrove'⟩ := hm
  have hreset : v.ctl.gpio.resetLine = u.ctl.gpio.resetLine := congrFun hline .reset
  have htxrx : v.ctl.gpio.txrxLine = u.ctl.gpio.txrxLine := congrFun hline .txrx
  refine ⟨ws, by simpa using hdrove.trans hdrove', ?_⟩
  rw [hopen, hline, hlevel, hreset, htxrx]
  exact hlevels

theorem LevelsDriven.trans_closed (h : LevelsDriven s u) (hc : SequencerClosed u v) : LevelsDriven s v := by
  obtain ⟨ws, hdrove, -⟩ := h
  obtain ⟨ws', hdrove'⟩ := hc.drove
  exact ⟨_, hdrove.trans hdrove', fun hopen => by simp [hc.gpio] at hopen⟩

/-- An open leaves both lines driven low, whatever came before it. -/
theorem LevelsDriven.trans_afterOpen {chip : Path} {resetPin txRxPin : Nat} (h : LevelsDriven s u)
    (hm : Moved u v { u.ctl with gpio := u.ctl.gpio.afterOpen chip resetPin txRxPin }
      [(resetPin, false), (txRxPin, false)]) : LevelsDriven s v := by
  obtain ⟨ws, hdrove, -⟩ := h
  refine ⟨_, hdrove.trans hm.drove, fun _ _ pin => ?_⟩
  rw [hm.ctl]
  cases pin <;> simp [Gpio.afterOpen, Gpio.line, Gpio.level]

/-- A line write moves the level of its own line alone, where the two lines differ. -/
theorem LevelsDriven.trans_lineSet {pin : Pin} {level : Bool} (h : LevelsDriven s u)
    (hm : Moved u v (Write.apply u.ctl (.gpioLevel pin level)) [(u.ctl.gpio.line pin, level)]) :
    LevelsDriven s v := by
  obtain ⟨ws, hdrove, hlevels⟩ := h
  refine ⟨_, hdrove.trans hm.drove, ?_⟩
  rw [hm.ctl]
  cases pin <;> intro hopen hne pin' <;> have hlevel := hlevels hopen hne pin' <;> cases pin'
  · simp [Write.apply, Gpio.line, Gpio.level]
  · have hne' : u.ctl.gpio.resetLine ≠ u.ctl.gpio.txrxLine := hne
    simpa [Write.apply, Gpio.line, Gpio.level, hne'] using hlevel
  · have hne' : u.ctl.gpio.txrxLine ≠ u.ctl.gpio.resetLine := Ne.symm hne
    simpa [Write.apply, Gpio.line, Gpio.level, hne'] using hlevel
  · simp [Write.apply, Gpio.line, Gpio.level]

end

section
variable {s : State}

theorem levelsDriven_openTransport : openTransport.Keeps (LevelsDriven s) (LevelsDriven s) := by
  refine fun u hu => (gives_openTransport u).mono ?_ fun t hm => hu.trans_same hm rfl rfl rfl
  rintro r t (⟨_, hm⟩ | ⟨_, hm⟩)
  · exact hu.trans_same hm rfl rfl rfl
  · exact hu.trans_same hm rfl rfl rfl

theorem levelsDriven_closeTransport : closeTransport.Keeps (LevelsDriven s) (LevelsDriven s) :=
  fun u hu => (gives_closeTransport u).mono (fun _ _ hm => hu.trans_same hm rfl rfl rfl)
    fun _ hm => hu.trans_same hm rfl rfl rfl

theorem levelsDriven_openSequencer (chip : Path) (resetPin txRxPin : Nat) :
    (openSequencer chip resetPin txRxPin).Keeps (LevelsDriven s) (LevelsDriven s) := by
  refine fun u hu => (gives_openSequencer chip resetPin txRxPin u).mono ?_ fun t hc => hu.trans_closed hc
  rintro r t (⟨_, _, hm⟩ | ⟨_, hm | hc⟩)
  · exact hu.trans_afterOpen hm
  · exact hu.trans_same hm rfl rfl rfl
  · exact hu.trans_closed hc

theorem levelsDriven_closeSequencer : closeSequencer.Keeps (LevelsDriven s) (LevelsDriven s) := by
  refine fun u hu => (gives_closeSequencer u).mono (fun _ _ hc => hu.trans_closed hc) ?_
  rintro t ⟨lines, hm⟩
  exact hu.trans_same hm rfl rfl rfl

/-- A call's levels are those last driven on the lines of its sequencer, in the state it leaves and in the one it
is stuck in (R29, R30). -/
theorem keeps_levelsDriven {cfg : Config} {alone : Bool} {q : Prog} (hq : q.Turns (Part cfg alone)) :
    q.Keeps (LevelsDriven s) (LevelsDriven s) := by
  refine hq.keeps (fun p hp u hu => Performed.gives_state.mpr ?_) fun q hpart => keeps_part
    levelsDriven_openTransport levelsDriven_closeTransport (fun chip a b _ => levelsDriven_openSequencer chip a b)
    levelsDriven_closeSequencer
    (fun _ u p hu => hu.trans_same (c := { u.ctl with phase := p }) ⟨rfl, rfl, .refl u⟩ rfl rfl rfl) hpart
  rcases perform_quiet hp u with hm | ⟨pin, level, hm⟩
  · exact hu.trans_same hm rfl rfl rfl
  · exact hu.trans_lineSet hm

end

end Sys2Proof.Machine
end

section
/-! What a call and a step can do, said once for both ways of running (R80, R81; assumption 9): the run of a program
whose turns are quiet primitives and parts, on the components of its own instance. -/

namespace Sys2Proof.Machine

/-! ### States that differ outside the components -/

/-- The two states have the same configuration, instances and trace. -/
structure SameWork (s t : State) : Prop where
  cfg : t.cfg = s.cfg
  ctl : t.ctl = s.ctl
  alone : t.alone = s.alone
  ctlId : t.ctlId = s.ctlId
  parked : t.parked = s.parked
  trace : t.trace = s.trace

theorem SameWork.refl (s : State) : SameWork s s := ⟨rfl, rfl, rfl, rfl, rfl, rfl⟩

theorem SameWork.view {s t : State} (h : SameWork s t) (alone : Bool) : SameWork (s.view alone) (t.view alone) := by
  obtain ⟨hcfg, hctl, halone, hctlId, hparked, htrace⟩ := h
  cases alone
  · exact ⟨hcfg, hctl, halone, hctlId, hparked, htrace⟩
  · refine ⟨hcfg, ?_, ?_, hctlId, hparked, htrace⟩ <;> simp [State.swapParts, hctl, halone]

namespace State

@[simp] theorem view_view (s : State) (alone : Bool) : (s.view alone).view alone = s := by cases alone <;> rfl

section
variable (s : State) (alone : Bool)

@[simp] theorem view_cfg : (s.view alone).cfg = s.cfg := by cases alone <;> rfl
@[simp] theorem view_ctlId : (s.view alone).ctlId = s.ctlId := by cases alone <;> rfl
@[simp] theorem view_parked : (s.view alone).parked = s.parked := by cases alone <;> rfl
@[simp] theorem view_owner : (s.view alone).owner = s.owner := by cases alone <;> rfl
@[simp] theorem view_caller : (s.view alone).caller = s.caller := by cases alone <;> rfl
@[simp] theorem view_trace : (s.view alone).trace = s.trace := by cases alone <;> rfl
@[simp] theorem view_returns : (s.view alone).returns = s.returns := by cases alone <;> rfl
@[simp] theorem view_requests : (s.view alone).requests = s.requests := by cases alone <;> rfl

end

/-- The parts of the state that choosing a request may move. -/
theorem select_eq (s : State) (r : Request) :
    s.select r = { s with
      ctl := (s.attach r.target).ctl, alone := (s.attach r.target).alone, ctlId := r.target,
      parked := (s.attach r.target).parked, caller := r.caller, schedule := s.schedule.tail,
      picked := s.picked + 1 } := by
  rw [select, attach_eq]

section
variable (s : State) (r : Request)

@[simp] theorem select_cfg : (s.select r).cfg = s.cfg := by rw [select_eq]
@[simp] theorem select_ctlId : (s.select r).ctlId = r.target := by rw [select_eq]
@[simp] theorem select_owner : (s.select r).owner = s.owner := by rw [select_eq]
@[simp] theorem select_trace : (s.select r).trace = s.trace := by rw [select_eq]
@[simp] theorem select_returns : (s.select r).returns = s.returns := by rw [select_eq]
@[simp] theorem startCall_returns (n : Nat) : (s.startCall n r).returns = s.returns := by rw [startCall_eq]

end

theorem startCall_sameWork (s : State) (n : Nat) (r : Request) : SameWork (s.select r) (s.startCall n r) :=
  ⟨rfl, rfl, rfl, rfl, rfl, rfl⟩

theorem takeLock_sameWork (s : State) : SameWork s s.takeLock := by constructor <;> simp

theorem releaseLock_sameWork (s : State) (r : Result) : SameWork s (s.releaseLock.deliver r) := by
  constructor <;> simp

theorem withRequests_sameWork (s : State) (rs : List Request) : SameWork s { s with requests := rs } :=
  ⟨rfl, rfl, rfl, rfl, rfl, rfl⟩

end State

theorem SameWork.trans {s t u : State} (h : SameWork s t) (h' : SameWork t u) : SameWork s u :=
  ⟨h'.cfg.trans h.cfg, h'.ctl.trans h.ctl, h'.alone.trans h.alone, h'.ctlId.trans h.ctlId,
   h'.parked.trans h.parked, h'.trace.trans h.trace⟩

/-! ### Whole calls -/

/-- A whole call, on the controller's components or on those used alone. -/
def wholeCall (alone : Bool) (q : Prog) (s : State) : Host.Outcome State Fault Refusal :=
  if alone then runAlone q s else runCall q s

theorem exec_eq_wholeCall (i : Instr) (s : State) :
    exec i s = wholeCall (!i.isController) (programOf s.cfg i) s := by
  rw [exec_eq, wholeCall]
  cases i.isController <;> rfl

theorem runWhole_eq_wholeCall (n : Nat) (r : Request) (c : Call) (s : State) :
    runWhole n r c s = wholeCall c.usedAlone (programOfCall s.cfg c) (s.startCall n r) := by
  rcases c with i | i
  · exact (exec_eq_wholeCall i _).trans (by rw [State.startCall_cfg]; rfl)
  · rw [runWhole, execScoped, State.startCall_cfg]; rfl

/-- A whole call with a next state is a run under the lock, which returns or gets stuck (R80, R224). -/
theorem wholeCall_cases {alone : Bool} {q : Prog} {s t : State} (h : wholeCall alone q s = .next t) :
    s.lockFree = true ∧
      ((∃ res v, q.run (s.view alone).takeLock = .done res v ∧ t = (v.releaseLock.deliver res).view alone) ∨
        ∃ v, q.run (s.view alone).takeLock = .stalled v ∧ t = v.view alone) := by
  have hcall : runCall q (s.view alone) = .next (t.view alone) := by
    cases alone
    · exact h
    · exact runAlone_next.mp h
  have back : ∀ u, t.view alone = u → t = u.view alone := fun u e => by rw [← e, State.view_view]
  have hlock : (s.view alone).lockFree = s.lockFree := by simp [State.lockFree]
  rcases runCall_cases q (s.view alone) with ⟨_, _, e⟩ | ⟨hfree, ⟨res, v, hrun, e⟩ | ⟨v, hrun, e⟩ | ⟨_, _, e⟩⟩
  · rw [e] at hcall; cases hcall
  · rw [e] at hcall
    injection hcall with hcall
    exact ⟨hlock ▸ hfree, .inl ⟨res, v, hrun, back _ hcall.symm⟩⟩
  · rw [e] at hcall
    injection hcall with hcall
    exact ⟨hlock ▸ hfree, .inr ⟨v, hrun, back _ hcall.symm⟩⟩
  · rw [e] at hcall; cases hcall

/-! ### Steps -/

/-- What a step can leave of the chosen request's call: the whole call under the lock, returned or stuck; or, with
`SERIALIZED = false`, its return, or its next turn, taken or stuck. -/
inductive Stepped (s : State) (n : Nat) (r : Request) (c : Call) : State → Prop
  | wholeDone {res : Result} {v : State} (hser : s.cfg.serialized = true) (hfree : (s.startCall n r).lockFree = true)
      (hrun : (programOfCall s.cfg c).run ((s.startCall n r).view c.usedAlone).takeLock = .done res v) :
      Stepped s n r c ((v.releaseLock.deliver res).view c.usedAlone)
  | wholeStalled {v : State} (hser : s.cfg.serialized = true)
      (hrun : (programOfCall s.cfg c).run ((s.startCall n r).view c.usedAlone).takeLock = .stalled v) :
      Stepped s n r c (v.view c.usedAlone)
  | returned {res : Result} (hser : s.cfg.serialized = false)
      (hdone : (programOfCall s.cfg c).resume r.turns = .done res) :
      Stepped s n r c ((s.startCall n r).deliver res)
  | turnDone {res : Result} {v : State} {turn : Turn} (hser : s.cfg.serialized = false)
      (hrun : ((programOfCall s.cfg c).resume r.turns).oneTurn.run ((s.select r).view c.usedAlone) = .done res v)
      (hturn : (∃ reply, turn = .reply reply) ∨
        turn = .result res ∧ ∃ q k, (programOfCall s.cfg c).resume r.turns = .whole q k) :
      Stepped s n r c { v.view c.usedAlone with requests := s.requests.set n { r with turns := r.turns ++ [turn] } }
  | turnStalled {v : State} (hser : s.cfg.serialized = false)
      (hrun : ((programOfCall s.cfg c).resume r.turns).oneTurn.run ((s.select r).view c.usedAlone) = .stalled v) :
      Stepped s n r c { v.view c.usedAlone with requests := s.requests.set n { r with stalled := true } }

section
variable {s t : State} {n : Nat} {r : Request} {c : Call}

theorem stepped_of_runWhole (hser : s.cfg.serialized = true) (h : runWhole n r c s = .next t) :
    Stepped s n r c t := by
  rw [runWhole_eq_wholeCall] at h
  rcases wholeCall_cases h with ⟨hfree, ⟨res, v, hrun, rfl⟩ | ⟨v, hrun, rfl⟩⟩
  · exact .wholeDone hser hfree hrun
  · exact .wholeStalled hser hrun

theorem stepped_of_runPrimitive (hser : s.cfg.serialized = false) (h : runPrimitive n r c s = .next t) :
    Stepped s n r c t := by
  unfold runPrimitive at h
  cases hq : (programOfCall s.cfg c).resume r.turns with
  | done res =>
    rw [hq] at h
    injection h with h
    exact h ▸ .returned hser hq
  | refuse e => rw [hq] at h; cases h
  | act p k =>
    rw [hq] at h
    dsimp only at h
    cases hp : p.perform ((s.select r).view c.usedAlone) with
    | replied reply v =>
      rw [hp] at h
      injection h with h
      refine h ▸ .turnDone (res := .ok .unit) hser ?_ (.inl ⟨reply, rfl⟩)
      simp [hq, Prog.oneTurn, Prog.run, hp]
    | stalled v =>
      rw [hp] at h
      injection h with h
      refine h ▸ .turnStalled hser ?_
      simp [hq, Prog.oneTurn, Prog.run, hp]
  | whole q k =>
    rw [hq] at h
    dsimp only at h
    cases hp : q.run ((s.select r).view c.usedAlone) with
    | done res v =>
      rw [hp] at h
      injection h with h
      refine h ▸ .turnDone hser ?_ (.inr ⟨rfl, q, k, hq⟩)
      simp [hq, Prog.oneTurn, hp]
    | stalled v =>
      rw [hp] at h
      injection h with h
      refine h ▸ .turnStalled hser ?_
      simp [hq, Prog.oneTurn, hp]
    | refused e => rw [hp] at h; cases h

/-- The step of a request whose source reads to a call. -/
theorem stepped_of_step (h : step s = .next t) (hnext : s.nextRequest = some (n, r))
    (hfetch : fetchCall s.cfg r.source = .ok c) : Stepped s n r c t := by
  cases hser : s.cfg.serialized with
  | true => exact stepped_of_runWhole hser (by simpa [step, hnext, hfetch, hser] using h)
  | false => exact stepped_of_runPrimitive hser (by simpa [step, hnext, hfetch, hser] using h)

/-- A step changes nothing where no call waits, and is that of the chosen request otherwise. -/
theorem step_cases (h : step s = .next t) :
    t = s ∨ ∃ n r c, s.nextRequest = some (n, r) ∧ fetchCall s.cfg r.source = .ok c ∧ Stepped s n r c t := by
  cases hnext : s.nextRequest with
  | none =>
    by_cases hreq : s.requests = [] <;> simp [step, hnext, hreq] at h
    exact .inl h.symm
  | some p =>
    obtain ⟨n, r⟩ := p
    cases hfetch : fetchCall s.cfg r.source with
    | error e => simp [step, hnext, hfetch] at h
    | ok c => exact .inr ⟨n, r, c, rfl, hfetch, stepped_of_step h hnext hfetch⟩

/-- Only a controller operation is presented as `scoped` (R208). -/
theorem isController_of_fetchCall {cfg : Config} {src : Source} (h : fetchCall cfg src = .ok c) (i : Instr)
    (hc : c = .scoped i) : i.isController = true := by
  rw [hc, fetchCall] at h
  split at h
  · cases h
  · split at h <;> cases h
  · split_ifs at h with _ hctl
    injection h with h
    injection h with h
    subst h
    simpa using hctl

/-- The turns of a call that was fetched. -/
theorem turns_of_fetchCall {cfg : Config} {src : Source} (h : fetchCall cfg src = .ok c) :
    (programOfCall cfg c).Turns (Part cfg c.usedAlone) :=
  turns_programOfCall (isController_of_fetchCall h)

/-! ### Which calls are stuck -/

theorem mem_eligible {rs : List Request} {n : Nat} (h : n ∈ eligible rs) :
    ∃ r, rs[n]? = some r ∧ r.stalled = false := by
  have hgo := (List.mem_filter.mp h).2
  unfold mayGo at hgo
  split at hgo
  · next r hr => exact ⟨r, hr, by simp_all⟩
  · cases hgo

/-- The chosen request is one that is not stuck. -/
theorem nextRequest_some (h : s.nextRequest = some (n, r)) : s.requests[n]? = some r ∧ r.stalled = false := by
  unfold State.nextRequest at h
  split at h
  · next m hm =>
    obtain ⟨r', hr', hstalled⟩ := mem_eligible (List.mem_of_getElem? hm)
    rw [hr'] at h
    injection h with h
    injection h with hn hr
    subst hn; subst hr
    exact ⟨hr', hstalled⟩
  · cases h

theorem State.stuckOn_iff {id : Nat} :
    s.stuckOn id = true ↔ s.owner.isSome = true ∨ ∃ r ∈ s.requests, r.stalled = true ∧ r.target = id := by
  simp [State.stuckOn]

/-- A stuck request is another than the chosen one, and stays where the chosen one ends or goes on. -/
theorem stuck_mem_rest {r' : Request} (hnext : s.nextRequest = some (n, r)) (hmem : r' ∈ s.requests)
    (hstalled : r'.stalled = true) :
    r' ∈ s.requests.eraseIdx n ∧ ∀ x, r' ∈ s.requests.set n x := by
  obtain ⟨hr, hgo⟩ := nextRequest_some hnext
  obtain ⟨i, hi⟩ := List.mem_iff_getElem?.mp hmem
  have hne : i ≠ n := by
    rintro rfl
    rw [hr] at hi
    injection hi with hi
    simp [← hi, hgo] at hstalled
  exact ⟨List.mem_eraseIdx_iff_getElem?.mpr ⟨i, hne, hi⟩,
    fun x => List.mem_of_getElem? (by rw [List.getElem?_set_ne hne.symm]; exact hi)⟩

/-- Where a step leaves the lock as it was, or takes it, and no stuck request goes, every instance that a call was
stuck on stays so. -/
theorem stuckOn_of_rest {id : Nat} (h : s.stuckOn id = true) (howner : s.owner.isSome = true → t.owner.isSome = true)
    (hrest : ∀ r' ∈ s.requests, r'.stalled = true → r' ∈ t.requests) : t.stuckOn id = true := by
  rcases State.stuckOn_iff.mp h with ho | ⟨r', hmem, hstalled, htarget⟩
  · exact State.stuckOn_iff.mpr (.inl (howner ho))
  · exact State.stuckOn_iff.mpr (.inr ⟨r', hrest r' hmem hstalled, hstalled, htarget⟩)

/-- What is stuck stays stuck. -/
theorem Stepped.stuckOn_mono (h : Stepped s n r c t) (hnext : s.nextRequest = some (n, r)) {id : Nat}
    (hstuck : s.stuckOn id = true) : t.stuckOn id = true := by
  cases h with
  | wholeDone hser hfree hrun =>
    have hframe := SameFrame.of_done hrun
    refine stuckOn_of_rest hstuck (fun ho => ?_) fun r' hmem hst => ?_
    · have : s.owner = none := by simpa [State.lockFree, hser] using hfree
      simp [this] at ho
    · simpa [hframe.requests] using (stuck_mem_rest hnext hmem hst).1
  | wholeStalled hser hrun =>
    have hframe := SameFrame.of_stalled hrun
    refine State.stuckOn_iff.mpr (.inl ?_)
    simp [hframe.owner, State.takeLock, hser]
  | returned hser hdone =>
    exact stuckOn_of_rest hstuck (fun ho => by simpa using ho)
      fun r' hmem hst => by simpa using (stuck_mem_rest hnext hmem hst).1
  | turnDone hser hrun hturn =>
    have hframe := SameFrame.of_done hrun
    exact stuckOn_of_rest hstuck (fun ho => by simpa [hframe.owner] using ho)
      fun r' hmem hst => (stuck_mem_rest hnext hmem hst).2 _
  | turnStalled hser hrun =>
    have hframe := SameFrame.of_stalled hrun
    exact stuckOn_of_rest hstuck (fun ho => by simpa [hframe.owner] using ho)
      fun r' hmem hst => (stuck_mem_rest hnext hmem hst).2 _

/-! ### The step as a run -/

/-- Either way the step is the run of a program of quiet primitives and parts, from the state of the chosen request. -/
theorem Stepped.runs (h : Stepped s n r c t) (hnext : s.nextRequest = some (n, r))
    (hfetch : fetchCall s.cfg r.source = .ok c) :
    ∃ (q : Prog) (u v : State), q.Turns (Part s.cfg c.usedAlone) ∧ SameWork ((s.select r).view c.usedAlone) u ∧
      SameWork (v.view c.usedAlone) t ∧ (q.run u).state? = some v ∧
      ((∃ res, q.run u = .done res v) ∨ t.stuckOn r.target = true) := by
  have hturns := turns_of_fetchCall hfetch
  have started : SameWork ((s.select r).view c.usedAlone) ((s.startCall n r).view c.usedAlone).takeLock :=
    ((s.startCall_sameWork n r).view _).trans (State.takeLock_sameWork _)
  cases h with
  | wholeDone hser hfree hrun =>
    exact ⟨_, _, _, hturns, started, (State.releaseLock_sameWork _ _).view _, by rw [hrun]; rfl, .inl ⟨_, hrun⟩⟩
  | wholeStalled hser hrun =>
    refine ⟨_, _, _, hturns, started, .refl _, by rw [hrun]; rfl, .inr ?_⟩
    have hframe := SameFrame.of_stalled hrun
    exact State.stuckOn_iff.mpr (.inl (by simp [hframe.owner, State.takeLock, hser]))
  | @returned res hser hdone =>
    exact ⟨.done res, (s.select r).view c.usedAlone, (s.select r).view c.usedAlone, trivial, .refl _,
      by rw [State.view_view]; exact ⟨rfl, rfl, rfl, rfl, rfl, rfl⟩, rfl, .inl ⟨res, rfl⟩⟩
  | turnDone hser hrun hturn =>
    exact ⟨_, _, _, (hturns.resume r.turns).oneTurn, .refl _, State.withRequests_sameWork _ _,
      by rw [hrun]; rfl, .inl ⟨_, hrun⟩⟩
  | turnStalled hser hrun =>
    refine ⟨_, _, _, (hturns.resume r.turns).oneTurn, .refl _, State.withRequests_sameWork _ _,
      by rw [hrun]; rfl, .inr ?_⟩
    obtain ⟨hr, -⟩ := nextRequest_some hnext
    obtain ⟨hlt, -⟩ := List.getElem?_eq_some_iff.mp hr
    exact State.stuckOn_iff.mpr (.inr ⟨_, List.mem_set hlt _, rfl, rfl⟩)

end

/-! ### Every instance (R65, R212) -/

/-- The instance of the current call. -/
def State.current (s : State) : Instance := ⟨s.ctl, s.alone⟩

/-- `Q` holds of every instance but those marked as stuck. -/
def EveryInstance (stuck : Nat → Bool) (Q : Instance → Prop) (s : State) : Prop :=
  (stuck s.ctlId = true ∨ Q s.current) ∧ ∀ p ∈ s.parked, stuck p.1 = true ∨ Q p.2

theorem mem_of_lookupEntry {α : Type} {a : Nat} {x : α} {m : List (Nat × α)} (h : lookupEntry a m = some x) :
    (a, x) ∈ m := by
  induction m with
  | nil => cases h
  | cons e m ih =>
    simp only [lookupEntry] at h
    split_ifs at h with he
    · injection h with h
      exact List.mem_cons.mpr (.inl (by rw [← he, ← h]))
    · exact List.mem_cons_of_mem _ (ih h)

section
variable {stuck : Nat → Bool} {Q : Instance → Prop} {s t : State}

/-- Making another instance the current one moves instances and changes none; one not listed is as after reset. -/
theorem EveryInstance.attach (h : EveryInstance stuck Q s) (hreset : Q .afterReset) (id : Nat) :
    EveryInstance stuck Q (s.attach id) := by
  unfold State.attach
  split
  · exact h
  · refine ⟨?_, fun p hp => ?_⟩
    · show stuck id = true ∨ Q ((lookupEntry id s.parked).getD Instance.afterReset)
      cases hl : lookupEntry id s.parked with
      | none => exact .inr hreset
      | some x => exact h.2 _ (mem_of_lookupEntry hl)
    · rcases mem_insertEntry hp with rfl | hp
      · exact h.1
      · exact h.2 p (List.mem_of_mem_filter hp)

theorem EveryInstance.select (h : EveryInstance stuck Q s) (hreset : Q .afterReset) (r : Request) :
    EveryInstance stuck Q (s.select r) :=
  h.attach hreset r.target

/-- What a call that returns keeps of its own instance, a step keeps of every instance but the stuck ones. -/
theorem Stepped.everyInstance {n : Nat} {r : Request} {c : Call} (hstep : Stepped s n r c t)
    (hnext : s.nextRequest = some (n, r)) (hfetch : fetchCall s.cfg r.source = .ok c) (hreset : Q .afterReset)
    (hkeeps : ∀ (q : Prog) (u v : State) (res : Result), q.Turns (Part s.cfg c.usedAlone) → u.cfg = s.cfg →
      q.run u = .done res v → Q (u.view c.usedAlone).current → Q (v.view c.usedAlone).current)
    (h : EveryInstance s.stuckOn Q s) : EveryInstance t.stuckOn Q t := by
  have mono : ∀ id, s.stuckOn id = true → t.stuckOn id = true := fun id => hstep.stuckOn_mono hnext
  obtain ⟨q, u, v, hturns, hu, hv, hstate, hend⟩ := hstep.runs hnext hfetch
  obtain ⟨hcur, hparked⟩ := h.select hreset r
  have hu' : SameWork (s.select r) (u.view c.usedAlone) := by simpa using hu.view c.usedAlone
  have hframe := Prog.run_sameFrame hstate
  have hid : t.ctlId = r.target := by
    rw [hv.ctlId, State.view_ctlId, hframe.ctlId, hu.ctlId, State.view_ctlId, State.select_ctlId]
  have hpk : t.parked = (s.select r).parked := by
    rw [hv.parked, State.view_parked, hframe.parked, hu.parked, State.view_parked]
  refine ⟨?_, fun p hp => (hparked p (hpk ▸ hp)).imp_left (mono _)⟩
  rw [hid]
  rcases hend with ⟨res, hrun⟩ | hstuck
  · rw [State.select_ctlId] at hcur
    refine hcur.imp (mono _) fun hQ => ?_
    have hQu : Q (u.view c.usedAlone).current := by
      simpa only [State.current, hu'.ctl, hu'.alone] using hQ
    have hQv := hkeeps q u v res hturns (by rw [hu.cfg]; simp) hrun hQu
    simpa only [State.current, hv.ctl, hv.alone] using hQv
  · exact .inl hstuck

end

end Sys2Proof.Machine
end

section
/-! A controller stays whole (R64, R212, R220): whole calls first, then the results of a call, then the step. -/

namespace Sys2Proof.Machine

/-! ### Whole calls -/

/-- A call on the components used alone leaves the controller as it is (R66, R67, R212). -/
theorem ctl_of_run_alone {cfg : Config} {q : Prog} {u v : State} (hq : q.Turns (Part cfg true))
    (hrun : (q.run u).state? = some v) : (v.view true).ctl = (u.view true).ctl := by
  have hphase : v.ctl.phase = u.ctl.phase :=
    Ran.gives_state.mp (keeps_phase_of_alone u.ctl.phase hq u rfl) v hrun
  have halone : v.alone = u.alone := (Prog.run_sameFrame hrun).alone
  simp [State.swapParts, hphase, halone]

/-- A controller that its call finds whole is whole when the call returns (R64). -/
theorem isWhole_of_run {cfg : Config} {q : Prog} {u v : State} {res : Result} (hq : q.Turns (Part cfg false))
    (hrun : q.run u = .done res v) (hu : u.ctl.isWhole = true) : v.ctl.isWhole = true := by
  have h := keeps_isWhole hq u hu
  rw [hrun] at h
  exact h

section
variable {alone : Bool} {q : Prog} {s t : State}

/-- A whole call is one run on the components of its own view of the state, whatever comes of it. -/
theorem wholeCall_run (h : wholeCall alone q s = .next t) :
    ∃ v, (q.run (s.view alone).takeLock).state? = some v ∧ SameWork (v.view alone) t := by
  rcases wholeCall_cases h with ⟨_, ⟨res, v, hrun, rfl⟩ | ⟨v, hrun, rfl⟩⟩
  · exact ⟨v, by rw [hrun]; rfl, (State.releaseLock_sameWork v res).view alone⟩
  · exact ⟨v, by rw [hrun]; rfl, .refl _⟩

/-- What a whole call returns, if anything. -/
theorem wholeCall_returns (h : wholeCall alone q s = .next t) :
    t.returns = s.returns ∨
      ∃ res v, q.run (s.view alone).takeLock = .done res v ∧ SameWork (v.view alone) t ∧
        t.returns = s.returns ++ [⟨s.caller, res⟩] := by
  rcases wholeCall_cases h with ⟨_, ⟨res, v, hrun, rfl⟩ | ⟨v, hrun, rfl⟩⟩
  · have hframe := SameFrame.of_done hrun
    refine .inr ⟨res, v, hrun, (State.releaseLock_sameWork v res).view alone, ?_⟩
    simp [hframe.returns, hframe.caller]
  · have hframe := SameFrame.of_stalled hrun
    exact .inl (by simp [hframe.returns])

/-- No other instance is touched (R212). -/
theorem wholeCall_parked (h : wholeCall alone q s = .next t) : t.parked = s.parked := by
  obtain ⟨v, hrun, hv⟩ := wholeCall_run h
  simpa [(Prog.run_sameFrame hrun).parked] using hv.parked

end

section
variable {cfg : Config} {q : Prog} {s t : State}

theorem wholeCall_ctl (hq : q.Turns (Part cfg true)) (h : wholeCall true q s = .next t) : t.ctl = s.ctl := by
  obtain ⟨v, hrun, hv⟩ := wholeCall_run h
  rw [hv.ctl, ctl_of_run_alone hq hrun]
  simp [State.swapParts]

theorem wholeCall_alone (h : wholeCall false q s = .next t) : t.alone = s.alone := by
  obtain ⟨v, hrun, hv⟩ := wholeCall_run h
  simpa [(Prog.run_sameFrame hrun).alone] using hv.alone

theorem wholeCall_isWhole (hq : q.Turns (Part cfg false)) (h : wholeCall false q s = .next t)
    (hs : s.ctl.isWhole = true) (hret : t.returns ≠ s.returns) : t.ctl.isWhole = true := by
  rcases wholeCall_returns h with e | ⟨res, v, hrun, hv, -⟩
  · exact absurd e hret
  · rw [hv.ctl]
    exact isWhole_of_run hq hrun (by simpa using hs)

end

/-- R64, R212 and R220 of one whole operation. -/
theorem exec_session {i : Instr} {s t : State} (h : exec i s = .next t) :
    (s.sessionWhole = true → t.returns ≠ s.returns → t.sessionWhole = true) ∧
    (if i.isController then t.alone = s.alone else t.ctl = s.ctl) ∧ t.parked = s.parked ∧
    (i.isController = true → ∀ e,
      t.returns = s.returns ++ [⟨s.caller, .err e⟩] → e.kind ≠ .invalidState) := by
  have hturns := turns_programOf s.cfg i
  rw [exec_eq_wholeCall] at h
  have hparked := wholeCall_parked h
  cases hctl : i.isController with
  | false =>
    rw [hctl] at h hturns
    have he := wholeCall_ctl hturns h
    exact ⟨fun hs _ => by simpa only [State.sessionWhole, he] using hs, he, hparked, nofun⟩
  | true =>
    rw [hctl] at h hturns
    refine ⟨fun hs hret => wholeCall_isWhole hturns h hs hret, wholeCall_alone h, hparked, fun _ e he => ?_⟩
    rcases wholeCall_returns h with hsame | ⟨res, v, hrun, -, hret⟩
    · rw [hsame] at he; simp at he
    · rw [hret] at he
      have hres : res = .err e := by simpa using he
      have hready := Prog.run_ends (ends_programOf_controller s.cfg hctl) hrun
      exact (Result.isReady_err.mp (hres ▸ hready)).1

/-! ### The results of a call -/

section
variable {cfg : Config} {c : Call}

/-- No controller call ends in `InvalidState`, in whatever order its turns run (R220). -/
theorem ends_controllerCall {i : Instr} (hc : c = .op i ∨ c = .scoped i) (hctl : i.isController = true) :
    Prog.Ends (·.isReady = true) (·.isReady = true) (programOfCall cfg c) := by
  rcases hc with rfl | rfl
  · exact ends_programOf_controller cfg hctl
  · exact ends_progScoped cfg hctl

/-- No uninterrupted part of a call that can be presented ends in `InvalidState`. -/
theorem ends_programOfCall (h : ∀ i, c = .scoped i → i.isController = true) :
    Prog.Ends (·.isReady = true) (fun _ => True) (programOfCall cfg c) := by
  rcases c with i | i
  · exact (ends_programOf cfg i).mono fun _ _ => trivial
  · exact Prog.Ends.mono (ends_progScoped cfg (h i rfl)) fun _ _ => trivial

theorem controllerCall_resume {i : Instr} {ts : List Turn} {e : Error} (hc : c = .op i ∨ c = .scoped i)
    (hctl : i.isController = true) (hts : ∀ t ∈ ts, t.isReady = true)
    (h : (programOfCall cfg c).resume ts = .done (.err e)) :
    e.kind ≠ .invalidState ∧ .invalidState ∉ e.members := by
  have hready := (ends_controllerCall (cfg := cfg) hc hctl).resume fun r hr => hts (.result r) hr
  rw [h] at hready
  exact Result.isReady_err.mp hready

end

/-! ### The step -/

theorem State.sessionsWhole_iff {s : State} :
    s.sessionsWhole = true ↔ EveryInstance s.stuckOn (·.ctl.isWhole = true) s := by
  simp [State.sessionsWhole, EveryInstance, State.current]

theorem State.turnsReady_iff {s : State} :
    s.turnsReady = true ↔ ∀ r ∈ s.requests, ∀ t ∈ r.turns, t.isReady = true := by
  simp [State.turnsReady]

section
variable {s t : State} {n : Nat} {r : Request} {c : Call}

/-- A step keeps every controller whole but for those a call is stuck on (R64). -/
theorem Stepped.sessionsWhole (h : Stepped s n r c t) (hnext : s.nextRequest = some (n, r))
    (hfetch : fetchCall s.cfg r.source = .ok c) (hs : s.sessionsWhole = true) : t.sessionsWhole = true := by
  refine State.sessionsWhole_iff.mpr (h.everyInstance hnext hfetch rfl ?_ (State.sessionsWhole_iff.mp hs))
  intro q u v res hturns _ hrun hu
  cases halone : c.usedAlone with
  | false =>
    rw [halone] at hturns hu
    exact isWhole_of_run hturns hrun hu
  | true =>
    rw [halone] at hturns hu
    have hctl := ctl_of_run_alone hturns (u := u) (v := v) (by rw [hrun]; rfl)
    simpa only [State.current, hctl] using hu

/-- The turn that a step takes ends in no `InvalidState`, and so no call in progress has had one that did. -/
theorem Stepped.turnsReady (h : Stepped s n r c t) (hnext : s.nextRequest = some (n, r))
    (hfetch : fetchCall s.cfg r.source = .ok c) (hs : s.turnsReady = true) : t.turnsReady = true := by
  rw [State.turnsReady_iff] at hs ⊢
  have hr : ∀ t ∈ r.turns, t.isReady = true := hs r (List.mem_of_getElem? (nextRequest_some hnext).1)
  have erased : ∀ r' ∈ s.requests.eraseIdx n, ∀ t ∈ r'.turns, t.isReady = true :=
    fun r' hmem => hs r' (List.mem_of_mem_eraseIdx hmem)
  have replaced : ∀ x : Request, (∀ t ∈ x.turns, t.isReady = true) →
      ∀ r' ∈ s.requests.set n x, ∀ t ∈ r'.turns, t.isReady = true := by
    intro x hx r' hmem
    rcases List.mem_or_eq_of_mem_set hmem with hmem | rfl
    · exact hs r' hmem
    · exact hx
  cases h with
  | wholeDone hser hfree hrun =>
    have hframe := SameFrame.of_done hrun
    simpa [hframe.requests] using erased
  | wholeStalled hser hrun =>
    have hframe := SameFrame.of_stalled hrun
    simpa [hframe.requests] using erased
  | returned hser hdone => exact erased
  | @turnDone res v turn hser hrun hturn =>
    refine replaced _ fun t' ht' => ?_
    rcases List.mem_append.mp ht' with ht' | ht'
    · exact hr t' ht'
    · rw [List.mem_singleton.mp ht']
      rcases hturn with ⟨reply, rfl⟩ | ⟨rfl, q, k, hq⟩
      · rfl
      · have hends := (ends_programOfCall (cfg := s.cfg) (isController_of_fetchCall hfetch)).resume
          fun r' hr' => hr (.result r') hr'
        rw [hq] at hends hrun
        exact Prog.run_ends hends.1 (by simpa [Prog.oneTurn] using hrun)
  | turnStalled hser hrun => exact replaced _ hr

/-- What a step returns to a controller call's caller is no `InvalidState` (R220). -/
theorem Stepped.return_isReady {i : Instr} {e : Error} (h : Stepped s n r c t) (hnext : s.nextRequest = some (n, r))
    (hc : c = .op i ∨ c = .scoped i) (hctl : i.isController = true) (hs : s.turnsReady = true)
    (hret : t.returns = s.returns ++ [⟨r.caller, .err e⟩]) :
    e.kind ≠ .invalidState ∧ .invalidState ∉ e.members := by
  have silent : t.returns ≠ s.returns := fun he => by rw [he] at hret; simp at hret
  cases h with
  | @wholeDone res v hser hfree hrun =>
    have hframe := SameFrame.of_done hrun
    have hres : res = .err e := by simpa [hframe.returns, hframe.caller] using hret
    exact Result.isReady_err.mp (hres ▸ Prog.run_ends (ends_controllerCall hc hctl) hrun)
  | wholeStalled hser hrun =>
    have hframe := SameFrame.of_stalled hrun
    exact absurd (by simp [hframe.returns]) silent
  | @returned res hser hdone =>
    have hres : res = .err e := by simpa using hret
    exact controllerCall_resume hc hctl
      (State.turnsReady_iff.mp hs r (List.mem_of_getElem? (nextRequest_some hnext).1)) (hres ▸ hdone)
  | turnDone hser hrun hturn =>
    have hframe := SameFrame.of_done hrun
    exact absurd (by simp [hframe.returns]) silent
  | turnStalled hser hrun =>
    have hframe := SameFrame.of_stalled hrun
    exact absurd (by simp [hframe.returns]) silent

end

/-- Settles O57: whole calls and steps are runs of quiet primitives, which move no phase and open or close nothing,
and of uninterrupted opens and closes, which leave the controller whole. -/
theorem sessionStaysWhole : Obligations.SessionStaysWhole := by
  refine ⟨fun i s t h => exec_session h, fun cfg c i ts e hc hctl hts h => controllerCall_resume hc hctl hts h,
    fun s t h => ⟨fun hs => ?_, fun hs => ⟨?_, fun n r i e hnext hfetch hctl hret => ?_⟩⟩⟩
  · rcases step_cases h with rfl | ⟨n, r, c, hnext, hfetch, hstep⟩
    · exact hs
    · exact hstep.sessionsWhole hnext hfetch hs
  · rcases step_cases h with rfl | ⟨n, r, c, hnext, hfetch, hstep⟩
    · exact hs
    · exact hstep.turnsReady hnext hfetch hs
  · rcases hfetch with hfetch | hfetch
    · exact (stepped_of_step h hnext hfetch).return_isReady hnext (.inl rfl) hctl hs hret
    · exact (stepped_of_step h hnext hfetch).return_isReady hnext (.inr rfl) hctl hs hret

end Sys2Proof.Machine
end

section
/-! Handles and driven levels (R26, R28 to R30): what one run leaves, carried to the instances a step finds and
leaves. -/

namespace Sys2Proof.Machine

/-! ### Handles -/

/-- The two components of the instance that a call does not work on hold their handles: the controller's where the
call is used alone, those used alone otherwise. -/
def OthersHeld (cfg : Config) (alone : Bool) (u : State) : Prop :=
  u.alone.spi.handleHeld cfg = true ∧ u.alone.gpio.linesHeld = true ∧
    (alone = true → u.alone.gpio.isOpen = true → u.alone.gpio.isWired cfg = true)

/-- An instance holds its handles where the components in use and the others do. -/
theorem handlesHeld_iff {cfg : Config} {alone : Bool} {u : State} (hcfg : u.cfg = cfg) :
    (u.view alone).current.handlesHeld cfg = true ↔ Held cfg alone u ∧ OthersHeld cfg alone u := by
  constructor
  · intro h
    cases alone <;> simp [State.current, State.swapParts, Instance.handlesHeld] at h
    · obtain ⟨⟨⟨⟨hspi, hspi'⟩, hlines⟩, hlines'⟩, hwired⟩ := h
      exact ⟨⟨hcfg, hspi, hlines, fun _ ho => by simpa [ho] using hwired⟩, hspi', hlines', nofun⟩
    · obtain ⟨⟨⟨⟨hspi, hspi'⟩, hlines⟩, hlines'⟩, hwired⟩ := h
      exact ⟨⟨hcfg, hspi', hlines', nofun⟩, hspi, hlines, fun _ ho => by simpa [ho] using hwired⟩
  · rintro ⟨⟨_, hspi, hlines, hwired⟩, hspi', hlines', hwired'⟩
    cases alone
    · cases ho : u.ctl.gpio.isOpen <;> simp_all [State.current, Instance.handlesHeld]
    · cases ho : u.alone.gpio.isOpen <;> simp_all [State.current, State.swapParts, Instance.handlesHeld]

theorem State.handlesHeld_iff {s : State} :
    s.handlesHeld = true ↔ EveryInstance s.stuckOn (·.handlesHeld s.cfg = true) s := by
  simp [State.handlesHeld, EveryInstance, State.current]

/-- A call that returns leaves its instance with its handles where it found them so. -/
theorem handlesHeld_of_run {cfg : Config} {alone : Bool} {q : Prog} {u v : State} {res : Result}
    (hq : q.Turns (Part cfg alone)) (hcfg : u.cfg = cfg) (hrun : q.run u = .done res v)
    (hu : (u.view alone).current.handlesHeld cfg = true) : (v.view alone).current.handlesHeld cfg = true := by
  obtain ⟨hheld, hothers⟩ := (handlesHeld_iff hcfg).mp hu
  have hframe : SameFrame u v := .of_done hrun
  have hheld' := keeps_held hq u hheld
  rw [hrun] at hheld'
  refine (handlesHeld_iff (hframe.cfg.trans hcfg)).mpr ⟨hheld', ?_⟩
  simpa only [OthersHeld, hframe.alone] using hothers

section
variable {s t : State} {n : Nat} {r : Request} {c : Call}

theorem Stepped.cfg (h : Stepped s n r c t) (hnext : s.nextRequest = some (n, r))
    (hfetch : fetchCall s.cfg r.source = .ok c) : t.cfg = s.cfg := by
  obtain ⟨q, u, v, -, hu, hv, hstate, -⟩ := h.runs hnext hfetch
  have hframe := Prog.run_sameFrame hstate
  simp [hv.cfg, hframe.cfg, hu.cfg]

/-- A step leaves every open component with its handle but where a call is stuck (R26, R28). -/
theorem Stepped.handlesHeld (h : Stepped s n r c t) (hnext : s.nextRequest = some (n, r))
    (hfetch : fetchCall s.cfg r.source = .ok c) (hs : s.handlesHeld = true) : t.handlesHeld = true := by
  rw [State.handlesHeld_iff, h.cfg hnext hfetch]
  exact h.everyInstance hnext hfetch (by simp [Instance.handlesHeld, Instance.afterReset, Controller.afterReset,
      Alone.afterReset, Transport.afterReset, Gpio.afterReset, Transport.handleHeld, Gpio.linesHeld])
    (fun q u v res hturns hcfg hrun hu => handlesHeld_of_run hturns hcfg hrun hu) (State.handlesHeld_iff.mp hs)

/-! ### Levels -/

/-- A step works on the components of its call alone, and the levels of an open sequencer follow its line writes
(R29, R30). -/
theorem Stepped.levels (h : Stepped s n r c t) (hnext : s.nextRequest = some (n, r))
    (hfetch : fetchCall s.cfg r.source = .ok c) :
    (t.view c.usedAlone).alone = ((s.select r).view c.usedAlone).alone ∧ t.parked = (s.select r).parked ∧
      LevelsDriven ((s.select r).view c.usedAlone) (t.view c.usedAlone) := by
  obtain ⟨q, u, v, hturns, hu, hv, hstate, -⟩ := h.runs hnext hfetch
  have hframe := Prog.run_sameFrame hstate
  have hv' : SameWork v (t.view c.usedAlone) := by simpa using hv.view c.usedAlone
  have hlevels : LevelsDriven u v := Ran.gives_state.mp (keeps_levelsDriven hturns u (.refl u)) v hstate
  refine ⟨by rw [hv'.alone, hframe.alone, hu.alone],
    by rw [hv.parked, State.view_parked, hframe.parked, hu.parked, State.view_parked], ?_⟩
  simpa only [LevelsDriven, Drove, hv'.ctl, hv'.trace, hu.ctl, hu.trace] using hlevels

end

/-- Settles O58: a step is a run of quiet primitives, which move no handle and at most one line with its field, and
of uninterrupted opens and closes, which take and drop a handle with its two lines as a whole. -/
theorem stepKeepsHandles : Obligations.StepKeepsHandles := by
  refine ⟨fun s t hs h => ?_, fun s t n r c h hnext hfetch => ?_⟩
  · rcases step_cases h with rfl | ⟨n, r, c, hnext, hfetch, hstep⟩
    · exact hs
    · exact hstep.handlesHeld hnext hfetch hs
  · obtain ⟨halone, hparked, ws, ⟨new, htrace, hwritten⟩, hlevels⟩ :=
      (stepped_of_step h hnext hfetch).levels hnext hfetch
    refine ⟨halone, hparked, new, by simpa using htrace, ?_⟩
    rintro g g' rfl rfl hopen hne
    simp only [lastDriven_eq_levelAfter, hwritten]
    exact ⟨hlevels hopen hne .reset, hlevels hopen hne .txrx⟩

end Sys2Proof.Machine
end

section
/-! The order of the bits on the wire (R10, R73, R90). -/

namespace Sys2Proof

/-- The bits of a byte in the order they go on the wire (R10). -/
def byteBits (b : Byte) : List Bool := (List.range 8).map fun k => b.getLsbD (7 - k)

@[simp] theorem length_byteBits (b : Byte) : (byteBits b).length = 8 := by simp [byteBits]

theorem byteBits_getElem? (b : Byte) {k : Nat} (hk : k < 8) : (byteBits b)[k]? = some (b.getLsbD (7 - k)) := by
  simp [byteBits, hk]

@[simp] theorem wireBits_nil : wireBits [] = [] := rfl

@[simp] theorem wireBits_cons (b : Byte) (f : Frame) : wireBits (b :: f) = byteBits b ++ wireBits f := rfl

theorem length_wireBits (f : Frame) : (wireBits f).length = 8 * f.length := by
  induction f with
  | nil => rfl
  | cons b f ih => simp only [wireBits_cons, List.length_append, length_byteBits, ih, List.length_cons]; omega

theorem wireBits_getElem? {f : Frame} {i k : Nat} {b : Byte} (hb : f[i]? = some b) (hk : k < 8) :
    (wireBits f)[8 * i + k]? = some (b.getLsbD (7 - k)) := by
  induction f generalizing i with
  | nil => simp at hb
  | cons c f ih =>
    cases i with
    | zero =>
      obtain rfl : c = b := by simpa using hb
      rw [wireBits_cons, List.getElem?_append_left (by simpa using hk)]
      simpa using byteBits_getElem? c hk
    | succ i =>
      have hshift : 8 * (i + 1) + k - (byteBits c).length = 8 * i + k := by rw [length_byteBits]; omega
      rw [wireBits_cons, List.getElem?_append_right (by rw [length_byteBits]; omega), hshift]
      exact ih (by simpa using hb)

/-- The first bit of a frame is the W flag of its address byte (R90). -/
theorem head?_wireBits (b : Byte) (f : Frame) : (wireBits (b :: f)).head? = some (isWrite b) := by
  rw [List.head?_eq_getElem?]
  exact wireBits_getElem? (i := 0) (k := 0) rfl (by decide)

end Sys2Proof

namespace Sys2Proof.Machine

/-- Settles O2: by induction on the frame each byte puts its eight bits after those of the bytes before it, so that
the first bit is the address byte's W flag. -/
theorem wireBitOrder : Obligations.WireBitOrder := by
  refine ⟨length_wireBits, fun f i k b => wireBits_getElem?, fun a v ha => ⟨?_, ?_⟩⟩
  · rw [writeFrame, head?_wireBits, (addressByte_parts true ha).1]
  · rw [readFrame, head?_wireBits, (addressByte_parts false ha).1]

end Sys2Proof.Machine
end

section
/-! What a run keeps of the register record's form, and whose events it puts on the trace (R69, R80, R163). -/

namespace Sys2Proof.Machine

/-! ### The register record (R69) -/

theorem State.memoryWf_of_regs {s t : State} (h : t.device.regs = s.device.regs) : t.memoryWf = s.memoryWf := by
  rw [memoryWf, memoryWf, h]

/-- A line's level keeps the record's form, where what it does on the reset line does. -/
theorem State.memoryWf_wire {s : State} {onReset : Device → Device} (line : Nat) (level : Bool)
    (hreset : ∀ d, Memory.wf d.regs = true → Memory.wf (onReset d).regs = true) (hs : s.memoryWf = true) :
    (s.wire line onReset level).memoryWf = true := by
  rcases s.wire_device line onReset level with e | e | e <;> rw [memoryWf, e]
  · exact hreset _ hs
  · exact hs
  · exact hs

section
variable {s : State}

theorem State.memoryWf_moveLine (line : Nat) (level : Bool) (hs : s.memoryWf = true) :
    (s.moveLine line level).memoryWf = true :=
  memoryWf_wire line level (fun _ => Device.wf_moveReset) hs

theorem State.memoryWf_disturbLine (line : Nat) (level : Bool) (hs : s.memoryWf = true) :
    (s.disturbLine line level).memoryWf = true := by
  rcases s.disturbLine_cases line level with e | e <;> rw [e]
  · exact hs
  · exact memoryWf_moveLine line level hs

theorem State.memoryWf_startLine (line : Nat) (hs : s.memoryWf = true) : (s.startLine line).memoryWf = true :=
  memoryWf_wire line false (fun _ h => h) hs

theorem State.memoryWf_floatLine (line : Nat) (level : Bool) (hs : s.memoryWf = true) :
    (s.floatLine line level).memoryWf = true :=
  memoryWf_wire line level (fun _ h => h) hs

/-- A line or resource primitive keeps the record's form where its effects do. -/
theorem attempt_memoryWf {possible : Bool} {ev : Event} {onOk onFail onStall : State → State}
    (hok : ∀ u : State, u.memoryWf = true → (onOk u).memoryWf = true)
    (hfail : ∀ u : State, u.memoryWf = true → (onFail u).memoryWf = true)
    (hstall : ∀ u : State, u.memoryWf = true → (onStall u).memoryWf = true) (hs : s.memoryWf = true) :
    (attempt possible ev onOk onFail onStall s).state.memoryWf = true :=
  Performed.gives_state.mp (attempt_gives (Q := fun _ u => u.memoryWf = true) (fun _ _ _ => hok _ hs)
    (fun _ _ => hfail _ hs) (hstall _ hs))

/-- No primitive takes the record out of its canonical form: a transfer writes or forgets registers of the address
space, a reset line that moves keeps some or takes the defaults, and nothing else touches the record. -/
theorem perform_memoryWf (p : Prim) (hs : s.memoryWf = true) : (p.perform s).state.memoryWf = true := by
  have keep : ∀ u : State, u.memoryWf = true → (id u).memoryWf = true := fun _ h => h
  cases p with
  | look | assign | gap | hold => exact hs
  | xfer tx =>
    rcases exchange_cases tx s with ⟨_, e⟩ | ⟨_, e⟩ | ⟨_, rx, _, e⟩ <;> rw [Prim.perform, e]
    · exact Device.wf_forget hs
    · exact Device.wf_forget hs
    · exact Device.wf_accept hs
  | lineGet pin => rcases getLine_cases s with e | ⟨_, e⟩ <;> rw [Prim.perform, e] <;> exact hs
  | lineSet pin level =>
    simp only [Prim.perform, setLine]
    exact attempt_memoryWf (fun _ => State.memoryWf_moveLine _ _) (fun _ => State.memoryWf_disturbLine _ _)
      (fun _ => State.memoryWf_disturbLine _ _) hs
  | spiOpen | chipOpen => simp only [Prim.perform]; exact attempt_memoryWf (fun _ h => h) keep keep hs
  | spiRelease | chipRelease => simp only [Prim.perform]; exact attempt_memoryWf keep keep keep hs
  | lineRequest line =>
    simp only [Prim.perform]
    refine attempt_memoryWf (fun u h => ?_) keep (fun u h => ?_) hs
    · exact State.memoryWf_startLine (s := (u.setLines _).emit _ _ _ _) line h
    · split
      · exact h
      · exact State.memoryWf_floatLine line _ h
  | lineRelease line =>
    have released : ∀ u : State, u.memoryWf = true →
        ((u.setLines (u.ctl.gpio.lines.erase line)).floatLine line s.answer.level).memoryWf = true :=
      fun u h => State.memoryWf_floatLine (s := u.setLines _) line _ h
    simp only [Prim.perform]
    exact attempt_memoryWf released released (fun _ => State.memoryWf_floatLine line _) hs

theorem Prog.run_memoryWf {q : Prog} {t : State} (ht : (q.run s).state? = some t) (hs : s.memoryWf = true) :
    t.memoryWf = true :=
  run_keeps (P := fun u => u.memoryWf = true) (fun p _ _ h => perform_memoryWf p h) q.acts_any hs ht

end

/-! ### Whose events (R80, R163) -/

/-- The trace has grown by one caller's events. -/
def GrownBy (caller : Nat) (s t : State) : Prop :=
  ∃ new, t.trace = s.trace ++ new ∧ ∀ e ∈ new, e.caller = caller

theorem GrownBy.refl (caller : Nat) (s : State) : GrownBy caller s s := ⟨[], by simp⟩

theorem Grown.by_caller {s t : State} {fs : List Frame} (h : Grown s t fs) : GrownBy s.caller s t := by
  obtain ⟨new, htrace, hcaller, -⟩ := h
  exact ⟨new, htrace, hcaller⟩

theorem GrownBy.trans {caller : Nat} {s t u : State} (h : GrownBy caller s t) (h' : GrownBy caller t u) :
    GrownBy caller s u := by
  obtain ⟨new, htrace, hcaller⟩ := h
  obtain ⟨new', htrace', hcaller'⟩ := h'
  refine ⟨new ++ new', by simp [htrace, htrace'], fun e he => ?_⟩
  rcases List.mem_append.mp he with he | he
  · exact hcaller e he
  · exact hcaller' e he

/-- A run's events are the current caller's (R163). -/
theorem Prog.run_grownBy {q : Prog} {s t : State} (ht : (q.run s).state? = some t) : GrownBy s.caller s t := by
  refine (run_keeps (P := fun u => u.caller = s.caller ∧ GrownBy s.caller s u) (fun p u _ ⟨hcaller, hu⟩ => ?_)
    q.acts_any ⟨rfl, .refl _ s⟩ ht).2
  refine ⟨(perform_sameFrame p u).caller.trans hcaller, hu.trans (hcaller ▸ ?_)⟩
  rcases perform_grown p u with h | ⟨_, _, h⟩ <;> exact h.by_caller

/-! ### Steps -/

namespace State

section
variable (s : State) (alone : Bool)

@[simp] theorem view_device : (s.view alone).device = s.device := by cases alone <;> rfl
@[simp] theorem view_now : (s.view alone).now = s.now := by cases alone <;> rfl
@[simp] theorem view_lastEnd : (s.view alone).lastEnd = s.lastEnd := by cases alone <;> rfl
@[simp] theorem view_schedule : (s.view alone).schedule = s.schedule := by cases alone <;> rfl
@[simp] theorem view_picked : (s.view alone).picked = s.picked := by cases alone <;> rfl

end

@[simp] theorem select_device (s : State) (r : Request) : (s.select r).device = s.device := by rw [select_eq]
@[simp] theorem select_caller (s : State) (r : Request) : (s.select r).caller = r.caller := rfl

end State

section
variable {s t : State} {n : Nat} {r : Request} {c : Call}

/-- A step is a run of the chosen request's caller, from the device as it was and on the trace so far. -/
theorem Stepped.run_device (h : Stepped s n r c t) :
    ∃ (q : Prog) (u v : State), (q.run u).state? = some v ∧ u.caller = r.caller ∧ u.trace = s.trace ∧
      u.device = s.device ∧ t.trace = v.trace ∧ t.device = v.device := by
  cases h with
  | wholeDone _ _ hrun => exact ⟨_, _, _, by rw [hrun]; rfl, by simp, by simp, by simp, by simp, by simp⟩
  | wholeStalled _ hrun => exact ⟨_, _, _, by rw [hrun]; rfl, by simp, by simp, by simp, by simp, by simp⟩
  | @returned res _ _ =>
    exact ⟨.done res, s.startCall n r, s.startCall n r, rfl, by simp, by simp, by simp, by simp, by simp⟩
  | turnDone _ hrun _ => exact ⟨_, _, _, by rw [hrun]; rfl, by simp, by simp, by simp, by simp, by simp⟩
  | turnStalled _ hrun => exact ⟨_, _, _, by rw [hrun]; rfl, by simp, by simp, by simp, by simp, by simp⟩

theorem Stepped.memoryWf (h : Stepped s n r c t) (hs : s.memoryWf = true) : t.memoryWf = true := by
  obtain ⟨q, u, v, hrun, -, -, hu, -, hv⟩ := h.run_device
  rw [State.memoryWf_of_regs (congrArg Device.regs hv)]
  exact Prog.run_memoryWf hrun ((State.memoryWf_of_regs (congrArg Device.regs hu)).trans hs)

theorem Stepped.grownBy (h : Stepped s n r c t) : GrownBy r.caller s t := by
  obtain ⟨q, u, v, hrun, hcaller, hu, -, hv, -⟩ := h.run_device
  simpa only [GrownBy, hcaller, hu, hv] using Prog.run_grownBy hrun

/-- A step returns to the chosen request's caller, or to none. -/
theorem Stepped.returns (h : Stepped s n r c t) :
    t.returns = s.returns ∨ ∃ res, t.returns = s.returns ++ [⟨r.caller, res⟩] := by
  cases h with
  | @wholeDone res v _ _ hrun =>
    have hframe := SameFrame.of_done hrun
    exact .inr ⟨res, by simp [hframe.returns, hframe.caller]⟩
  | wholeStalled _ hrun => exact .inl (by simp [(SameFrame.of_stalled hrun).returns])
  | @returned res _ _ => exact .inr ⟨res, by simp⟩
  | turnDone _ hrun _ => exact .inl (by simp [(SameFrame.of_done hrun).returns])
  | turnStalled _ hrun => exact .inl (by simp [(SameFrame.of_stalled hrun).returns])

end

/-- Settles O56: a step is a run of primitives, each of which keeps the record's form and none the configuration's
values. -/
theorem stepKeepsMemoryForm : Obligations.StepKeepsMemoryForm := by
  intro s t h
  rcases step_cases h with rfl | ⟨n, r, c, hnext, hfetch, hstep⟩
  · exact ⟨rfl, id⟩
  · exact ⟨hstep.cfg hnext hfetch, hstep.memoryWf⟩

/-- Settles O51: either the step changes nothing, or its events and its return are the chosen request's caller's. -/
theorem stepEventsAreOneCallers : Obligations.StepEventsAreOneCallers := by
  intro s t _ h
  rcases step_cases h with rfl | ⟨n, r, c, -, -, hstep⟩
  · exact ⟨0, [], by simp⟩
  · obtain ⟨new, htrace, hcaller⟩ := hstep.grownBy
    exact ⟨r.caller, new, htrace, hcaller, hstep.returns⟩

end Sys2Proof.Machine
end

section
/-! The serialization lock (R80, R224, R226). -/

namespace Sys2Proof.Machine

/-- Every operation waits while a stuck call holds the lock (R80, R224). -/
theorem exec_locked {s : State} (hser : s.cfg.serialized = true) (howner : s.owner ≠ none) (i : Instr) :
    exec i s = .fault .waitsForLock := by
  have hheld : s.owner.isSome = true := Option.isSome_iff_ne_none.mpr howner
  rw [exec_eq]
  split <;> simp [runAlone, runCall, hser, hheld]

/-- A whole call that goes on found the lock free; it returned and released it, or it is stuck and keeps it. -/
theorem wholeCall_lock {alone : Bool} {q : Prog} {s t : State} (hser : s.cfg.serialized = true)
    (h : wholeCall alone q s = .next t) :
    s.owner = none ∧ t.cfg = s.cfg ∧
      ((t.owner = none ∧ ∃ r, t.returns = s.returns ++ [⟨s.caller, r⟩]) ∨
        (t.owner = some s.caller ∧ t.returns = s.returns)) := by
  rcases wholeCall_cases h with ⟨hfree, hend⟩
  refine ⟨by simpa [State.lockFree, hser] using hfree, ?_⟩
  rcases hend with ⟨res, v, hrun, rfl⟩ | ⟨v, hrun, rfl⟩
  · have hframe := SameFrame.of_done hrun
    have hcfg : v.cfg = s.cfg := by simpa using hframe.cfg
    refine ⟨by simpa using hcfg, .inl ⟨by simp [State.releaseLock, hcfg, hser], res, ?_⟩⟩
    simp [hframe.returns, hframe.caller]
  · have hframe := SameFrame.of_stalled hrun
    refine ⟨by simpa using hframe.cfg, .inr ⟨?_, by simp [hframe.returns]⟩⟩
    simp [hframe.owner, State.takeLock, hser]

/-- Settles O49: a call goes on only where the lock is free, and the one that leaves it taken shuts every later
operation out. -/
theorem lockDiscipline : Obligations.LockDiscipline := by
  refine fun i s hser => ⟨fun howner => exec_locked hser howner i, fun t h => ?_⟩
  rw [exec_eq_wholeCall] at h
  obtain ⟨hfree, hcfg, hreturned | ⟨howner, hsilent⟩⟩ := wholeCall_lock hser h
  · exact ⟨hfree, .inl hreturned⟩
  · refine ⟨hfree, .inr ⟨howner, hsilent, fun j => exec_locked (hcfg ▸ hser) ?_ j⟩⟩
    simp [howner]

end Sys2Proof.Machine
end

section
/-! A call's turns, one by one and uninterrupted (R81, R82; assumption 9): a run does not look at the other requests
or at the choices among them, so that cutting it into turns changes nothing else. -/

namespace Sys2Proof.Machine

/-! ### The queue does not matter to a run -/

/-- The state with other requests waiting, and other choices among them to come. -/
def State.queued (s : State) (rs : List Request) (ks : List Nat) (picked : Nat) : State :=
  { s with requests := rs, schedule := ks, picked := picked }

/-- A primitive's outcome, with another queue. -/
def Performed.queued (rs : List Request) (ks : List Nat) (picked : Nat) : Performed → Performed
  | .replied r s => .replied r (s.queued rs ks picked)
  | .stalled s => .stalled (s.queued rs ks picked)

/-- A run's end, with another queue. -/
def Ran.queued (rs : List Request) (ks : List Nat) (picked : Nat) : Ran → Ran
  | .done r s => .done r (s.queued rs ks picked)
  | .stalled s => .stalled (s.queued rs ks picked)
  | .refused r => .refused r

section
variable (rs : List Request) (ks : List Nat) (m : Nat)

namespace State

variable (s : State)

@[simp] theorem queued_cfg : (s.queued rs ks m).cfg = s.cfg := rfl
@[simp] theorem queued_ctl : (s.queued rs ks m).ctl = s.ctl := rfl
@[simp] theorem queued_alone : (s.queued rs ks m).alone = s.alone := rfl
@[simp] theorem queued_ctlId : (s.queued rs ks m).ctlId = s.ctlId := rfl
@[simp] theorem queued_parked : (s.queued rs ks m).parked = s.parked := rfl
@[simp] theorem queued_lastEnd : (s.queued rs ks m).lastEnd = s.lastEnd := rfl
@[simp] theorem queued_caller : (s.queued rs ks m).caller = s.caller := rfl
@[simp] theorem queued_device : (s.queued rs ks m).device = s.device := rfl
@[simp] theorem queued_now : (s.queued rs ks m).now = s.now := rfl
@[simp] theorem queued_inputs : (s.queued rs ks m).inputs = s.inputs := rfl
@[simp] theorem queued_drawn : (s.queued rs ks m).drawn = s.drawn := rfl
@[simp] theorem queued_trace : (s.queued rs ks m).trace = s.trace := rfl
@[simp] theorem queued_returns : (s.queued rs ks m).returns = s.returns := rfl
@[simp] theorem queued_requests : (s.queued rs ks m).requests = rs := rfl
@[simp] theorem queued_schedule : (s.queued rs ks m).schedule = ks := rfl
@[simp] theorem queued_picked : (s.queued rs ks m).picked = m := rfl
@[simp] theorem queued_answer : (s.queued rs ks m).answer = s.answer := rfl
@[simp] theorem queued_lineHeld (line : Nat) : (s.queued rs ks m).lineHeld line = s.lineHeld line := rfl

theorem consume_queued : (s.queued rs ks m).consume = s.consume.queued rs ks m := rfl

theorem wire_queued (line : Nat) (onReset : Device → Device) (level : Bool) :
    (s.queued rs ks m).wire line onReset level = (s.wire line onReset level).queued rs ks m := by
  simp only [wire, apply_ite (State.queued · rs ks m)]
  rfl

theorem disturbLine_queued (line : Nat) (level : Bool) :
    (s.queued rs ks m).disturbLine line level = (s.disturbLine line level).queued rs ks m := by
  simp only [disturbLine, apply_ite (State.queued · rs ks m), moveLine, ← wire_queued]
  rfl

theorem awaitBus_queued : (s.queued rs ks m).awaitBus = s.awaitBus.queued rs ks m := by
  simp only [awaitBus, apply_ite (State.queued · rs ks m)]
  rfl

end State

theorem attempt_queued {possible : Bool} {ev : Event} {onOk onFail onStall : State → State}
    (hok : ∀ u : State, onOk (u.queued rs ks m) = (onOk u).queued rs ks m)
    (hfail : ∀ u : State, onFail (u.queued rs ks m) = (onFail u).queued rs ks m)
    (hstall : ∀ u : State, onStall (u.queued rs ks m) = (onStall u).queued rs ks m) (s : State) :
    attempt possible ev onOk onFail onStall (s.queued rs ks m)
      = (attempt possible ev onOk onFail onStall s).queued rs ks m := by
  simp only [attempt, State.queued_answer]
  cases outcome s.answer possible with
  | ok => exact congrArg (fun u : State => Performed.replied ⟨s.answer, u.ctl⟩ u) (hok (s.attempted ev true))
  | failed =>
    exact congrArg (fun u : State => Performed.replied ⟨{ s.answer with status := .failed }, u.ctl⟩ u)
      (hfail (s.attempted ev false))
  | stalled =>
    exact congrArg Performed.stalled (hstall { s.consume with now := s.now + s.answer.before })

theorem exchange_queued (tx : Frame) (s : State) :
    exchange tx (s.queued rs ks m) = (exchange tx s).queued rs ks m := by
  simp only [exchange, State.queued_answer, State.consume_queued, State.awaitBus_queued]
  cases s.answer.status <;> rfl

theorem getLine_queued (s : State) : getLine (s.queued rs ks m) = (getLine s).queued rs ks m := by
  simp only [getLine, State.queued_answer, State.queued_ctl]
  cases outcome s.answer s.ctl.gpio.isOpen <;> rfl

/-- What a primitive does, it does whatever waits. -/
theorem perform_queued (p : Prim) (s : State) :
    p.perform (s.queued rs ks m) = (p.perform s).queued rs ks m := by
  have keep : ∀ u : State, id (u.queued rs ks m) = (id u).queued rs ks m := fun _ => rfl
  cases p with
  | look | assign | gap | hold => rfl
  | xfer tx => exact exchange_queued rs ks m tx s
  | lineGet pin => exact getLine_queued rs ks m s
  | lineSet pin level =>
    simp only [Prim.perform, setLine]
    refine attempt_queued rs ks m (fun u => ?_) (fun u => ?_) (fun u => ?_) s
    · exact congrArg (State.write · (.gpioLevel pin level)) (u.wire_queued rs ks m _ _ _)
    · exact u.disturbLine_queued rs ks m _ _
    · exact u.disturbLine_queued rs ks m _ _
  | spiOpen | chipOpen => simp only [Prim.perform]; exact attempt_queued rs ks m (fun _ => rfl) keep keep s
  | spiRelease | chipRelease => simp only [Prim.perform]; exact attempt_queued rs ks m keep keep keep s
  | lineRequest line =>
    simp only [Prim.perform, State.queued_lineHeld, State.queued_answer]
    refine attempt_queued rs ks m (fun u => ?_) keep (fun u => ?_) s
    · exact State.wire_queued rs ks m ((u.setLines (line :: u.ctl.gpio.lines)).emit u.now u.now _ true) _ _ _
    · rw [State.queued_lineHeld]
      split
      · rfl
      · exact u.wire_queued rs ks m _ _ _
  | lineRelease line =>
    have released : ∀ u : State, ((u.queued rs ks m).setLines ((u.queued rs ks m).ctl.gpio.lines.erase line)).floatLine
          line s.answer.level
        = ((u.setLines (u.ctl.gpio.lines.erase line)).floatLine line s.answer.level).queued rs ks m := fun u =>
      State.wire_queued rs ks m (u.setLines (u.ctl.gpio.lines.erase line)) _ _ _
    simp only [Prim.perform, State.queued_answer]
    exact attempt_queued rs ks m released released (fun u => u.wire_queued rs ks m _ _ _) s

/-- What a run does, it does whatever waits. -/
theorem Prog.run_queued (q : Prog) (s : State) : q.run (s.queued rs ks m) = (q.run s).queued rs ks m := by
  induction q generalizing s with
  | done | refuse => rfl
  | act p k ih =>
    simp only [run, perform_queued]
    cases p.perform s with
    | replied r t => exact ih r t
    | stalled t => rfl
  | whole q k ihq ih =>
    simp only [run, ihq]
    cases q.run s with
    | done r t => exact ih r t
    | stalled t => rfl
    | refused e => rfl

end

end Sys2Proof.Machine
end

section
/-! Which request a step takes up, and what one turn of its call is (R80, R81; assumption 9). -/

namespace Sys2Proof.Machine

/-! ### Which request may be next -/

/-- Whether a request may go on is a matter of the callers up to it, and of its not being stuck. -/
theorem mayGo_iff {rs : List Request} {n : Nat} :
    mayGo rs n = true ↔ (rs.map Request.stalled)[n]? = some false ∧
      ∃ c, (rs.map Request.caller)[n]? = some c ∧ c ∉ (rs.map Request.caller).take n := by
  simp only [mayGo, List.getElem?_map, ← List.map_take]
  cases h : rs[n]? with
  | none => simp
  | some r => simp [-List.map_take]

theorem eligible_congr {rs rs' : List Request} (hcaller : rs'.map Request.caller = rs.map Request.caller)
    (hstalled : rs'.map Request.stalled = rs.map Request.stalled) : eligible rs' = eligible rs := by
  have hlen : rs'.length = rs.length := by simpa using congrArg List.length hcaller
  have hgo : mayGo rs' = mayGo rs := by
    funext n
    rw [Bool.eq_iff_iff, mayGo_iff, mayGo_iff, hcaller, hstalled]
  rw [eligible, eligible, hlen, hgo]

/-- The turns a call has had do not change who may go on. -/
theorem eligible_set_turns {rs : List Request} {n : Nat} {r : Request} (hr : rs[n]? = some r) (ts : List Turn) :
    eligible (rs.set n { r with turns := ts }) = eligible rs := by
  obtain ⟨hlt, rfl⟩ := List.getElem?_eq_some_iff.mp hr
  refine eligible_congr ?_ ?_ <;> rw [List.map_set] <;>
    exact List.ext_getElem? fun i => by rw [List.getElem?_set]; split_ifs <;> simp_all

theorem eligible_lone {r : Request} (hr : r.stalled = false) : eligible [r] = [0] := by
  have h : mayGo [r] 0 = true := mayGo_iff.mpr ⟨by simp [hr], r.caller, by simp⟩
  simp [eligible, List.range_succ, h]

theorem eligible_pair {r r' : Request} (hr : r.stalled = false) (hr' : r'.stalled = false)
    (hne : r.caller ≠ r'.caller) : eligible [r, r'] = [0, 1] := by
  have h : mayGo [r, r'] 0 = true := mayGo_iff.mpr ⟨by simp [hr], r.caller, by simp⟩
  have h' : mayGo [r, r'] 1 = true := mayGo_iff.mpr ⟨by simp [hr'], r'.caller, by simpa using hne.symm⟩
  simp [eligible, List.range_succ, h, h']

namespace State

/-- The choice among the callers `j` choices later. -/
def choiceAt (s : State) (j : Nat) : Nat := (s.schedule[j]?).getD (Config.freePick (s.picked + j))

@[simp] theorem choiceAt_zero (s : State) : s.choiceAt 0 = s.choice := by
  simp [choiceAt, choice, List.head?_eq_getElem?]

/-- The next `m` choices fall on the request at place `n`. -/
def Picks (s : State) (n m : Nat) : Prop :=
  ∀ j < m, (eligible s.requests)[s.choiceAt j % (eligible s.requests).length]? = some n

theorem nextRequest_of_picks {s : State} {n m : Nat} {r : Request} (hp : s.Picks n (m + 1))
    (hr : s.requests[n]? = some r) : s.nextRequest = some (n, r) := by
  have h := hp 0 (Nat.succ_pos m)
  rw [choiceAt_zero] at h
  simp [nextRequest, h, hr]

/-- The state once the chosen call has had some more turns, the last of which ended in `u`. -/
def afterTurns (s : State) (n : Nat) (r : Request) (c : Call) (ts : List Turn) (u : State) : State :=
  (u.view c.usedAlone).queued (s.requests.set n { r with turns := r.turns ++ ts }) (s.schedule.drop ts.length)
    (s.picked + ts.length)

section
variable (s u : State) (n : Nat) (r : Request) (c : Call) (ts : List Turn)

@[simp] theorem afterTurns_cfg : (s.afterTurns n r c ts u).cfg = u.cfg := by simp [afterTurns]
@[simp] theorem afterTurns_ctlId : (s.afterTurns n r c ts u).ctlId = u.ctlId := by simp [afterTurns]
@[simp] theorem afterTurns_schedule : (s.afterTurns n r c ts u).schedule = s.schedule.drop ts.length := rfl
@[simp] theorem afterTurns_requests :
    (s.afterTurns n r c ts u).requests = s.requests.set n { r with turns := r.turns ++ ts } := rfl

end

/-- The later choices fall on a call after its turn as they did before it. -/
theorem Picks.afterTurn {s u : State} {n m : Nat} {r : Request} {c : Call} {turn : Turn} (hp : s.Picks n (m + 1))
    (hr : s.requests[n]? = some r) : (s.afterTurns n r c [turn] u).Picks n m := by
  intro j hj
  have hchoice : (s.afterTurns n r c [turn] u).choiceAt j = s.choiceAt (j + 1) := by
    simp [afterTurns, choiceAt, List.getElem?_tail, Nat.add_assoc, Nat.add_comm 1 j]
  rw [hchoice, afterTurns_requests, eligible_set_turns hr]
  exact hp (j + 1) (Nat.succ_lt_succ hj)

/-- Any request may be the next that is not stuck and has none of its own caller's before it (R81). -/
theorem exists_nextRequest {s : State} {n : Nat} {r : Request} (hr : s.requests[n]? = some r)
    (hstalled : r.stalled = false) (hfirst : ∀ r' ∈ s.requests.take n, r'.caller ≠ r.caller) :
    ∃ k, ∀ ks, ({ s with schedule := k :: ks } : State).nextRequest = some (n, r) := by
  have hgo : mayGo s.requests n = true := mayGo_iff.mpr ⟨by simp [hr, hstalled], r.caller, by simp [hr], by
    rw [← List.map_take, List.mem_map]
    rintro ⟨r', hmem, hcaller⟩
    exact hfirst r' hmem hcaller⟩
  have hmem : n ∈ eligible s.requests :=
    List.mem_filter.mpr ⟨List.mem_range.mpr (List.getElem?_eq_some_iff.mp hr).1, hgo⟩
  obtain ⟨k, hk⟩ := List.mem_iff_getElem?.mp hmem
  have hlt : k < (eligible s.requests).length := (List.getElem?_eq_some_iff.mp hk).1
  exact ⟨k, fun ks => by simp [nextRequest, choice, Nat.mod_eq_of_lt hlt, hk, hr]⟩

end State

/-! ### A turn, and a step -/

namespace Prog

/-- One turn of a program: a primitive that replies, or an uninterrupted part that ends, with what is left. -/
inductive Turned : Prog → State → Turn → Prog → State → Prop
  | act {p : Prim} {k : Reply → Prog} {s t : State} {r : Reply} (h : p.perform s = .replied r t) :
      Turned (.act p k) s (.reply r) (k r) t
  | whole {q : Prog} {k : Result → Prog} {s t : State} {r : Result} (h : q.run s = .done r t) :
      Turned (.whole q k) s (.result r) (k r) t

/-- Several turns of a program, one after another. -/
inductive Took : Prog → State → List Turn → Prog → State → Prop
  | nil {q : Prog} {s : State} : Took q s [] q s
  | cons {q q' q'' : Prog} {s t u : State} {turn : Turn} {ts : List Turn} (h : Turned q s turn q' t)
      (hs : Took q' t ts q'' u) : Took q s (turn :: ts) q'' u

theorem Took.append {q q' q'' : Prog} {s t u : State} {ts ts' : List Turn} (h : Took q s ts q' t)
    (h' : Took q' t ts' q'' u) : Took q s (ts ++ ts') q'' u := by
  induction h with
  | nil => exact h'
  | cons hturn _ ih => exact .cons hturn (ih h')

/-- What is left after a turn is what the program resumes as. -/
theorem Turned.resume {q q' : Prog} {s t : State} {turn : Turn} (h : Turned q s turn q' t) (ts : List Turn) :
    q.resume (turn :: ts) = q'.resume ts := by
  cases h <;> rfl

theorem Took.resume {q q' : Prog} {s t : State} {ts : List Turn} (h : Took q s ts q' t) (ts' : List Turn) :
    q.resume (ts ++ ts') = q'.resume ts' := by
  induction h with
  | nil => rfl
  | cons hturn _ ih => rw [List.cons_append, hturn.resume, ih]

@[simp] theorem resume_nil (q : Prog) : q.resume [] = q := by cases q <;> rfl

theorem Turned.bind {q q' : Prog} {s t : State} {turn : Turn} (h : Turned q s turn q' t) (f : Result → Prog) :
    Turned (q.bind f) s turn (q'.bind f) t := by
  cases h with
  | act h => exact .act h
  | whole h => exact .whole h

theorem Took.bind {q q' : Prog} {s t : State} {ts : List Turn} (h : Took q s ts q' t) (f : Result → Prog) :
    Took (q.bind f) s ts (q'.bind f) t := by
  induction h with
  | nil => exact .nil
  | cons hturn _ ih => exact .cons (hturn.bind f) ih

theorem Turned.queued {q q' : Prog} {s t : State} {turn : Turn} (h : Turned q s turn q' t) (rs : List Request)
    (ks : List Nat) (m : Nat) : Turned q (s.queued rs ks m) turn q' (t.queued rs ks m) := by
  cases h with
  | act h => exact .act (by rw [perform_queued, h]; rfl)
  | whole h => exact .whole (by rw [run_queued, h]; rfl)

theorem Took.queued {q q' : Prog} {s t : State} {ts : List Turn} (h : Took q s ts q' t) (rs : List Request)
    (ks : List Nat) (m : Nat) : Took q (s.queued rs ks m) ts q' (t.queued rs ks m) := by
  induction h with
  | nil => exact .nil
  | cons hturn _ ih => exact .cons (hturn.queued rs ks m) ih

/-- An uninterrupted run that ends is a sequence of turns. -/
theorem took_of_run {q : Prog} {s t : State} {res : Result} (h : q.run s = .done res t) :
    ∃ ts, Took q s ts (.done res) t := by
  induction q generalizing s with
  | done r =>
    cases h
    exact ⟨[], .nil⟩
  | refuse e => cases h
  | act p k ih =>
    simp only [run] at h
    cases hp : p.perform s with
    | replied r u =>
      rw [hp] at h
      obtain ⟨ts, hts⟩ := ih r h
      exact ⟨_, .cons (.act hp) hts⟩
    | stalled u => rw [hp] at h; cases h
  | whole q k _ ih =>
    simp only [run] at h
    cases hq : q.run s with
    | done r u =>
      rw [hq] at h
      obtain ⟨ts, hts⟩ := ih r h
      exact ⟨_, .cons (.whole hq) hts⟩
    | stalled u => rw [hq] at h; cases h
    | refused e => rw [hq] at h; cases h

theorem Turned.sameFrame {q q' : Prog} {s t : State} {turn : Turn} (h : Turned q s turn q' t) : SameFrame s t := by
  cases h with
  | @act p k s t r h => simpa [h] using perform_sameFrame p s
  | whole h => exact .of_done h

theorem Took.sameFrame {q q' : Prog} {s t : State} {ts : List Turn} (h : Took q s ts q' t) : SameFrame s t := by
  induction h with
  | nil => exact .refl _
  | cons hturn _ ih => exact hturn.sameFrame.trans ih

end Prog

section
variable {s : State} {n : Nat} {r : Request} {c : Call}

/-- With `SERIALIZED = false` the step runs one turn of the next request's call, or its return (R81). -/
theorem step_eq_runPrimitive (hser : s.cfg.serialized = false) (hnext : s.nextRequest = some (n, r))
    (hfetch : fetchCall s.cfg r.source = .ok c) : step s = runPrimitive n r c s := by
  simp [step, hnext, hfetch, hser]

/-- The step of a call that has had its last turn is its return. -/
theorem step_of_done {res : Result} (hser : s.cfg.serialized = false) (hnext : s.nextRequest = some (n, r))
    (hfetch : fetchCall s.cfg r.source = .ok c) (hdone : (programOfCall s.cfg c).resume r.turns = .done res) :
    step s = .next ((s.startCall n r).deliver res) := by
  rw [step_eq_runPrimitive hser hnext hfetch]
  simp only [runPrimitive, hdone]

/-- The step of a call that goes on is its next turn. -/
theorem step_of_turned {q : Prog} {u : State} {turn : Turn} (hser : s.cfg.serialized = false)
    (hnext : s.nextRequest = some (n, r)) (hfetch : fetchCall s.cfg r.source = .ok c)
    (hturn : Prog.Turned ((programOfCall s.cfg c).resume r.turns) ((s.select r).view c.usedAlone) turn q u) :
    step s = .next { u.view c.usedAlone with
      requests := s.requests.set n { r with turns := r.turns ++ [turn] } } := by
  rw [step_eq_runPrimitive hser hnext hfetch, runPrimitive]
  generalize (programOfCall s.cfg c).resume r.turns = p at hturn ⊢
  cases hturn with
  | act h => simp only [h]
  | whole h => simp only [h]

end

end Sys2Proof.Machine
end

section
/-! The steps of one call, turn after turn, and of a call alone (R81, R82, R249). -/

namespace Sys2Proof.Machine

namespace State

theorem view_queued (s : State) (alone : Bool) (rs : List Request) (ks : List Nat) (m : Nat) :
    (s.queued rs ks m).view alone = (s.view alone).queued rs ks m := by cases alone <;> rfl

@[simp] theorem queued_queued (s : State) (rs rs' : List Request) (ks ks' : List Nat) (m m' : Nat) :
    (s.queued rs ks m).queued rs' ks' m' = s.queued rs' ks' m' := rfl

/-- Choosing a request of the current caller and the current controller uses up a choice, and nothing else. -/
theorem select_queued {s : State} {r : Request} (hcaller : s.caller = r.caller) (hid : s.ctlId = r.target)
    (rs : List Request) (ks : List Nat) (m : Nat) :
    (s.queued rs ks m).select r = s.queued rs ks.tail (m + 1) := by
  rw [select, ← hid, ← hcaller]
  have hattach : (s.queued rs ks m).attach s.ctlId = s.queued rs ks m := if_pos rfl
  rw [hattach]
  rfl

@[simp] theorem select_schedule (s : State) (r : Request) : (s.select r).schedule = s.schedule.tail := rfl
@[simp] theorem select_picked (s : State) (r : Request) : (s.select r).picked = s.picked + 1 := rfl

end State

/-- The request at a place is of a call of which `q` is left. -/
structure Pending (s : State) (n : Nat) (r : Request) (c : Call) (q : Prog) : Prop where
  unserialized : s.cfg.serialized = false
  request : s.requests[n]? = some r
  fetched : fetchCall s.cfg r.source = .ok c
  left : ∀ ts, (programOfCall s.cfg c).resume (r.turns ++ ts) = q.resume ts

section
variable {s t u : State} {n : Nat} {r : Request} {c : Call} {q q' : Prog}

/-- A call that has had no turn is left whole. -/
theorem pending_whole (hser : s.cfg.serialized = false) (hr : s.requests[n]? = some r) (hturns : r.turns = [])
    (hfetch : fetchCall s.cfg r.source = .ok c) : Pending s n r c (programOfCall s.cfg c) :=
  ⟨hser, hr, hfetch, fun ts => by rw [hturns, List.nil_append]⟩

/-- Another call's turns leave a call as it is. -/
theorem Pending.of_request {n' : Nat} (h : Pending s n r c q) (hcfg : t.cfg = s.cfg)
    (hr : t.requests[n']? = some r) : Pending t n' r c q :=
  ⟨hcfg ▸ h.unserialized, hr, hcfg ▸ h.fetched, hcfg ▸ h.left⟩

/-- After some turns there is left of a call what they leave of its program. -/
theorem Pending.took {v : State} {ts : List Turn} (h : Pending s n r c q) (htook : Prog.Took q v ts q' u)
    (hcfg : t.cfg = s.cfg) (hr : t.requests[n]? = some { r with turns := r.turns ++ ts }) :
    Pending t n { r with turns := r.turns ++ ts } c q' :=
  ⟨hcfg ▸ h.unserialized, hr, hcfg ▸ h.fetched, fun ts' => by
    rw [hcfg, List.append_assoc, h.left, htook.resume]⟩

theorem Pending.resume_eq (h : Pending s n r c q) : (programOfCall s.cfg c).resume r.turns = q := by
  simpa using h.left []

/-- The step of a call that is chosen is its next turn, and its place in the queue stays. -/
theorem Pending.step_turned {turn : Turn} {m : Nat} (h : Pending s n r c q) (hpicks : s.Picks n (m + 1))
    (hturn : Prog.Turned q ((s.select r).view c.usedAlone) turn q' u) :
    step s = .next (s.afterTurns n r c [turn] u) := by
  have hframe := hturn.sameFrame
  have hschedule : s.schedule.drop 1 = (u.view c.usedAlone).schedule := by simp [hframe.schedule]
  have hpicked : s.picked + 1 = (u.view c.usedAlone).picked := by simp [hframe.picked]
  rw [step_of_turned h.unserialized (State.nextRequest_of_picks hpicks h.request) h.fetched
    (h.resume_eq.symm ▸ hturn), State.afterTurns, List.length_singleton, hschedule, hpicked]
  rfl

/-- The step of a chosen call that has had its last turn is its return. -/
theorem Pending.step_done {res : Result} {m : Nat} (h : Pending s n r c (.done res)) (hpicks : s.Picks n (m + 1)) :
    step s = .next (((s.select r).queued (s.requests.eraseIdx n) s.schedule.tail (s.picked + 1)).deliver res) :=
  step_of_done h.unserialized (State.nextRequest_of_picks hpicks h.request) h.fetched h.resume_eq

theorem Pending.afterTurns {ts : List Turn} (h : Pending s n r c q)
    (htook : Prog.Took q ((s.select r).view c.usedAlone) ts q' u) :
    Pending (s.afterTurns n r c ts u) n { r with turns := r.turns ++ ts } c q' :=
  h.took htook (by simp [htook.sameFrame.cfg]) (by simp [(List.getElem?_eq_some_iff.mp h.request).1])

/-- After a turn the call's next one begins where the turn ended. -/
theorem took_afterTurns {turn : Turn} {ts : List Turn} {q'' : Prog} {v : State}
    (hturn : Prog.Turned q ((s.select r).view c.usedAlone) turn q' u) (htook : Prog.Took q' u ts q'' v) :
    ∃ rs ks m, Prog.Took q' (((s.afterTurns n r c [turn] u).select { r with turns := r.turns ++ [turn] }).view
      c.usedAlone) ts q'' (v.queued rs ks m) := by
  have hframe := hturn.sameFrame
  rw [State.afterTurns, State.select_queued (by simp [hframe.caller]) (by simp [hframe.ctlId]), State.view_queued,
    State.view_view]
  exact ⟨_, _, _, htook.queued _ _ _⟩

/-- While a call is chosen its steps are its turns, and change the queue in its place alone. -/
theorem Pending.runSteps_took {ts : List Turn} (h : Pending s n r c q) (hpicks : s.Picks n ts.length)
    (htook : Prog.Took q ((s.select r).view c.usedAlone) ts q' u) (hne : ts ≠ []) :
    runSteps ts.length s = .next (s.afterTurns n r c ts u) := by
  induction ts generalizing s r q u with
  | nil => exact absurd rfl hne
  | cons turn ts ih =>
    cases htook with
    | cons hturn htook =>
      simp only [List.length_cons, runSteps, h.step_turned hpicks hturn]
      cases ts with
      | nil =>
        cases htook
        rfl
      | cons turn' ts =>
        obtain ⟨rs, ks, m, htook'⟩ := took_afterTurns (n := n) hturn htook
        rw [ih (h.afterTurns (.cons hturn .nil)) (hpicks.afterTurn h.request) htook' (List.cons_ne_nil _ _)]
        simp [State.afterTurns, State.view_queued, Nat.add_assoc, Nat.add_comm 1]

/-- A call that is chosen to its end takes the turns that are left, returns, and waits no more. -/
theorem Pending.runSteps_done {ts : List Turn} {res : Result} (h : Pending s n r c q)
    (hpicks : s.Picks n (ts.length + 1))
    (htook : Prog.Took q ((s.select r).view c.usedAlone) ts (.done res) u) :
    runSteps (ts.length + 1) s = .next (((u.view c.usedAlone).queued (s.requests.eraseIdx n)
      (s.schedule.drop (ts.length + 1)) (s.picked + (ts.length + 1))).deliver res) := by
  induction ts generalizing s r q u with
  | nil =>
    cases htook
    simp [runSteps, h.step_done hpicks]
  | cons turn ts ih =>
    cases htook with
    | cons hturn htook =>
      obtain ⟨rs, ks, m, htook'⟩ := took_afterTurns (n := n) hturn htook
      rw [runSteps, h.step_turned hpicks hturn]
      dsimp only [List.length_cons]
      rw [ih (h.afterTurns (.cons hturn .nil)) (hpicks.afterTurn h.request) htook']
      simp [State.afterTurns, List.eraseIdx_set_eq, State.view_queued, Nat.add_assoc, Nat.add_comm 1]

/-! ### A call alone -/

theorem State.picks_lone (hreq : s.requests = [r]) (hstalled : r.stalled = false) (m : Nat) : s.Picks 0 m := by
  intro j _
  rw [hreq, eligible_lone hstalled]
  simp [Nat.mod_one]

/-- A lone call run turn by turn ends as its uninterrupted run does (R82, R249). -/
theorem runSteps_lone {res : Result} (hser : s.cfg.serialized = false) (hreq : s.requests = [r])
    (hturns : r.turns = []) (hstalled : r.stalled = false) (hfetch : fetchCall s.cfg r.source = .ok c)
    (hrun : (programOfCall s.cfg c).run ((s.select r).view c.usedAlone) = .done res u) :
    ∃ k ks m, runSteps k s = .next (((u.view c.usedAlone).queued [] ks m).deliver res) := by
  obtain ⟨ts, htook⟩ := Prog.took_of_run hrun
  have h := pending_whole (n := 0) hser (by simp [hreq]) hturns hfetch
  exact ⟨_, _, _, by simpa [hreq] using h.runSteps_done (State.picks_lone hreq hstalled _) htook⟩

end

end Sys2Proof.Machine
end

section
/-! Two callers' setters of one register (R81, R164, R249): the read and the write of each are steps of their own, so
the order in which the transfers come decides which fields are kept. -/

namespace Sys2Proof

/-! ### The gain fields (R98, R165, R167) -/

theorem encodeLna_le (g : Rat) : encodeLna g ≤ 6 := by
  unfold encodeLna
  split
  · next row hrow =>
    have hmem : row ∈ lnaTable := List.mem_of_find?_eq_some hrow
    have hall : ∀ row ∈ lnaTable, row.2 ≤ 6 := by decide
    exact hall row hmem
  · exact le_rfl

theorem clamp_le {lo hi : Rat} (h : lo ≤ hi) (x : Rat) : clamp x lo hi ≤ hi := by
  unfold clamp
  split_ifs with hlo hhi
  · exact h
  · exact le_rfl
  · exact not_lt.mp hhi

theorem encodePga_le (g : Rat) : encodePga g ≤ 15 := by
  have hclamp : clamp g 0 30 / 2 < 16 := by linarith [clamp_le (lo := 0) (hi := 30) (by norm_num) g]
  have hfloor : (clamp g 0 30 / 2).floor < 16 := Rat.floor_lt_iff.mpr (by exact_mod_cast hclamp)
  unfold encodePga
  omega

theorem lnaField_insert (r : Byte) {code : Nat} (h : code ≤ 6) :
    lnaField.insert r code = (r &&& 0x1F) ||| BitVec.ofNat 8 (code * 2 ^ 5) := by
  have hcode : ∀ c : Fin 7, (BitVec.ofNat 8 c.val <<< 5) &&& (0xE0 : Byte) = BitVec.ofNat 8 (c.val * 2 ^ 5) := by decide
  exact congrArg ((r &&& 0x1F) ||| ·) (hcode ⟨code, by omega⟩)

theorem pgaField_insert (r : Byte) {code : Nat} (h : code ≤ 15) :
    pgaField.insert r code = (r &&& 0xE1) ||| BitVec.ofNat 8 (code * 2) := by
  have hcode : ∀ c : Fin 16, (BitVec.ofNat 8 c.val <<< 1) &&& (0x1E : Byte) = BitVec.ofNat 8 (c.val * 2) := by decide
  exact congrArg ((r &&& 0xE1) ||| ·) (hcode ⟨code, by omega⟩)

/-- Both fields of RXFE1 set, one after the other, keep the register's lowest bit alone. -/
theorem pgaField_insert_lnaField_insert (r : Byte) {lna pga : Nat} (hlna : lna ≤ 6) (hpga : pga ≤ 15) :
    pgaField.insert (lnaField.insert r lna) pga
      = (r &&& 0x01) ||| BitVec.ofNat 8 (lna * 2 ^ 5) ||| BitVec.ofNat 8 (pga * 2) := by
  have hkept : ∀ c : Fin 7, BitVec.ofNat 8 (c.val * 2 ^ 5) &&& (0xE1 : Byte) = BitVec.ofNat 8 (c.val * 2 ^ 5) := by
    decide
  have hrest : (r &&& 0x1F) &&& 0xE1 = r &&& 0x01 := by rw [BitVec.and_assoc]; rfl
  rw [pgaField_insert _ hpga, lnaField_insert _ hlna, BitVec.and_or_distrib_right, hrest, hkept ⟨lna, by omega⟩]

end Sys2Proof

namespace Sys2Proof.Machine

/-! ### The two halves of a setter -/

namespace Prog

/-- The program comes to `q'` in `k` turns. -/
def TookIn (k : Nat) (q : Prog) (s : State) (q' : Prog) (t : State) : Prop :=
  ∃ ts : List Turn, ts.length = k ∧ Took q s ts q' t

theorem TookIn.trans {j k : Nat} {q q' q'' : Prog} {s t u : State} (h : TookIn j q s q' t)
    (h' : TookIn k q' t q'' u) : TookIn (j + k) q s q'' u := by
  obtain ⟨ts, rfl, htook⟩ := h
  obtain ⟨ts', rfl, htook'⟩ := h'
  exact ⟨ts ++ ts', List.length_append, htook.append htook'⟩

theorem TookIn.bind {k : Nat} {q q' : Prog} {s t : State} (h : TookIn k q s q' t) (f : Result → Prog) :
    TookIn k (q.bind f) s (q'.bind f) t := by
  obtain ⟨ts, hk, htook⟩ := h
  exact ⟨ts, hk, htook.bind f⟩

theorem tookIn_act {p : Prim} {k : Reply → Prog} {s t : State} {r : Reply} (h : p.perform s = .replied r t) :
    TookIn 1 (.act p k) s (k r) t :=
  ⟨_, rfl, .cons (.act h) .nil⟩

theorem tookIn_look (k : Controller → Prog) (s : State) : TookIn 1 (look k) s (k s.ctl) s :=
  tookIn_act (p := .look) rfl

section
variable {s : State}

/-- A transfer that goes through takes two turns, its gap the second (R113). -/
theorem tookIn_spiTransfer {tx : Frame} (next : Frame → Prog) (h : s.answer.status = .ok)
    (hl : s.answer.rx.length = tx.length) :
    TookIn 2 (spiTransfer tx next) s (next (s.response tx)) (s.transferred tx) := by
  rcases exchange_cases tx s with ⟨e, _⟩ | ⟨e, _⟩ | ⟨_, rx, rfl, e⟩
  · simp [h] at e
  · simp [h] at e
  · have hlen : (s.response tx).length = tx.length := by simpa using hl
    refine TookIn.trans (j := 1) (k := 1) (tookIn_act (p := .xfer tx) e) ?_
    dsimp only
    rw [if_neg (by simp [Reply.isOk, h]), if_neg (by simpa using hl)]
    have haccept : s.device.accept s.nextStart tx ((s.response tx).length == tx.length)
        = s.device.accept s.nextStart tx true := by simp [hlen]
    rw [State.transferred, ← haccept]
    exact tookIn_act (p := .gap s.answer.after) rfl

theorem tookIn_requireSpi (q : Prog) (ho : s.ctl.spi.isOpen = true) : TookIn 1 (requireSpi q) s q s := by
  have hlook := tookIn_look (fun c => if c.spi.isOpen then q else .raise .invalidState .transportNotOpen) s
  rwa [if_pos ho] at hlook

theorem tookIn_requireReady (q : Prog) (h : s.ctl.phase = .ready) :
    TookIn 1 (requireReady q) s (q.bind fun r => .done r.inController) s := by
  have hlook := tookIn_look (fun c => if c.phase = .ready then q.bind fun r => .done r.inController
    else .raise .notInitialized .notReady) s
  rwa [if_pos h] at hlook

theorem tookIn_writeReg {a : Nat} {v : Byte} (next : Prog) (ho : s.ctl.spi.isOpen = true) (ha : a ≤ 0x13)
    (h : s.answer.status = .ok) (hl : s.answer.rx.length = 2) :
    TookIn 3 (writeReg a v next) s next (s.transferred (writeFrame a v)) := by
  refine TookIn.trans (j := 1) (k := 2) (tookIn_requireSpi _ ho) ?_
  rw [requireRange, if_pos (inRange_one.mpr ha)]
  exact tookIn_spiTransfer _ h (by simpa [writeFrame] using hl)

theorem tookIn_readReg {a : Nat} (next : Byte → Prog) (ho : s.ctl.spi.isOpen = true) (ha : a ≤ 0x13)
    (h : s.answer.status = .ok) (hl : s.answer.rx.length = 2) :
    TookIn 3 (readReg a next) s (next ((s.response (readFrame a)).getD 1 0)) (s.transferred (readFrame a)) := by
  have hlen : (s.response (readFrame a)).length = 2 := by simpa using hl
  refine TookIn.trans (j := 1) (k := 2) (tookIn_requireSpi _ ho) ?_
  rw [requireRange, if_pos (inRange_one.mpr ha)]
  obtain ⟨x, y, hxy⟩ := List.length_eq_two.mp hlen
  have htook := tookIn_spiTransfer (tx := readFrame a) (fun rx => match rx with
    | [_, r] => next r
    | _ => .raise .invalidArgument .mismatchedLengths) h (by simpa [readFrame] using hl)
  rw [hxy] at htook ⊢
  exact htook

end

end Prog

end Sys2Proof.Machine
end

section
/-! Two setters of RXFE1 in two orders of their transfers (R81, R249). -/

namespace Sys2Proof.Machine

/-- A session is open on a coherent device, and its next `m` transfers go through, none in a hazard; RXFE1 is known to
hold `x`. -/
structure SetterReady (s : State) (m : Nat) (x : Byte) : Prop where
  coherent : s.cfg.deviceCoherent = true
  phase : s.ctl.phase = .ready
  spi : s.ctl.spi.isOpen = true
  hazard : s.hazardNext = false
  answers : s.answersOk (List.replicate m 2) = true
  known : Memory.read Reg.rxfe1.addr s.device.regs = some x

namespace SetterReady

section
variable {s t : State} {m : Nat} {x : Byte}

/-- Neither the queue nor the caller nor the trace matters. -/
theorem of_same (h : SetterReady s m x) (hcfg : t.cfg = s.cfg) (hctl : t.ctl = s.ctl) (hdevice : t.device = s.device)
    (hnow : t.now = s.now) (hlast : t.lastEnd = s.lastEnd) (hinputs : t.inputs = s.inputs)
    (hdrawn : t.drawn = s.drawn) : SetterReady t m x where
  coherent := hcfg ▸ h.coherent
  phase := hctl ▸ h.phase
  spi := hctl ▸ h.spi
  hazard := by
    rw [State.hazardNext, hdevice, State.nextStart_congr hinputs hdrawn hnow hlast]
    exact h.hazard
  answers := by
    simp only [State.answersOk_iff, State.answerAt_congr hinputs hdrawn]
    exact (s.answersOk_iff _).mp h.answers
  known := hdevice ▸ h.known

theorem select (h : SetterReady s m x) {r : Request} (htarget : r.target = s.ctlId) : SetterReady (s.select r) m x := by
  have hattach : s.attach r.target = s := by rw [htarget, State.attach_self]
  refine h.of_same ?_ ?_ ?_ ?_ ?_ ?_ ?_ <;> rw [State.select, hattach]

theorem answer (h : SetterReady s (m + 1) x) : s.answer.status = .ok ∧ s.answer.rx.length = 2 := by
  simpa using (s.answersOk_iff _).mp h.answers 0 2 (by simp)

/-- After a transfer the register holds what the device has then. -/
theorem transferred (h : SetterReady s (m + 1) x) (tx : Frame) {y : Byte}
    (hknown : Memory.read Reg.rxfe1.addr (s.device.accept s.nextStart tx true).regs = some y) :
    SetterReady (s.transferred tx) m y where
  coherent := by simpa using h.coherent
  phase := by simpa using h.phase
  spi := by simpa using h.spi
  hazard := s.transferred_hazard tx h.hazard
  answers := by
    rw [State.answersOk_iff]
    intro k n hk
    simpa using (s.answersOk_iff _).mp h.answers (k + 1) n (by simpa [List.replicate_succ] using hk)
  known := by simpa using hknown

theorem read (h : SetterReady s (m + 1) x) : SetterReady (s.transferred (readFrame Reg.rxfe1.addr)) m x := by
  refine h.transferred _ ?_
  have haccept : s.device.accept s.nextStart (readFrame Reg.rxfe1.addr) true = s.device := by
    have hazard : s.device.hazard s.nextStart = false := h.hazard
    have hwrite : isWrite (addressByte false Reg.rxfe1.addr) = false := rfl
    simp [Device.accept, hazard, readFrame, hwrite]
  rw [haccept]
  exact h.known

theorem write (h : SetterReady s (m + 1) x) (v : Byte) :
    SetterReady (s.transferred (writeFrame Reg.rxfe1.addr v)) m v := by
  refine h.transferred _ ?_
  have hazard : s.device.hazard s.nextStart = false := h.hazard
  have hwrite : isWrite (addressByte true Reg.rxfe1.addr) = true := rfl
  have haddr : frameAddr (addressByte true Reg.rxfe1.addr) = Reg.rxfe1.addr := rfl
  simp only [Device.accept, hazard, writeFrame, hwrite, haddr]
  exact Memory.read_writeRun_inside (a := Reg.rxfe1.addr) (k := 0) (vs := [v]) (by simp) (by decide) (by decide)
    (by decide)

/-- The byte read is the one known (R40). -/
theorem response (h : SetterReady s (m + 1) x) : (s.response (readFrame Reg.rxfe1.addr)).getD 1 0 = x := by
  obtain ⟨a, b, hab⟩ := List.length_eq_two.mp h.answer.2
  have hazard : s.device.hazard s.nextStart = false := h.hazard
  have hwrite : isWrite (addressByte false Reg.rxfe1.addr) = false := rfl
  have haddr : frameAddr (addressByte false Reg.rxfe1.addr) = Reg.rxfe1.addr := rfl
  simp [State.response, Device.respond, h.coherent, hazard, hab, readFrame, hwrite, haddr, Device.overlay, h.known]

end

end SetterReady

/-! ### The two halves of a setter, as steps -/

/-- What is left of a gain setter after its read. -/
def gainWrite (v : Byte) : Prog := (writeReg Reg.rxfe1.addr v <| .ret .unit).bind fun r => .done r.inController

section
variable {s : State} {m : Nat} {x : Byte}

theorem tookIn_gainRead {fd : Field} (hfd : fd.reg = .rxfe1) (code : Nat) (h : SetterReady s (m + 1) x) :
    Prog.TookIn 4 (setGain fd code) s (gainWrite (fd.insert x code)) (s.transferred (readFrame Reg.rxfe1.addr)) := by
  refine Prog.TookIn.trans (j := 1) (k := 3) (Prog.tookIn_requireReady _ h.phase) ?_
  have hread := Prog.tookIn_readReg (a := Reg.rxfe1.addr) (fun r => writeReg Reg.rxfe1.addr (fd.insert r code) <| .ret .unit)
    h.spi (by decide) h.answer.1 h.answer.2
  rw [h.response] at hread
  rw [readModifyWrite, hfd]
  exact hread.bind _

theorem tookIn_gainWrite (v : Byte) (h : SetterReady s (m + 1) x) :
    Prog.TookIn 3 (gainWrite v) s (.done (.ok .unit)) (s.transferred (writeFrame Reg.rxfe1.addr v)) :=
  (Prog.tookIn_writeReg _ h.spi (by decide) h.answer.1 h.answer.2).bind _

end

/-- A call on the current controller waits, of which `q` is left. -/
structure SetterWaits (s : State) (n : Nat) (r : Request) (c : Call) (q : Prog) : Prop where
  pending : Pending s n r c q
  notStuck : r.stalled = false
  target : r.target = s.ctlId
  controller : c.usedAlone = false

section
variable {s t : State} {n m : Nat} {r : Request} {c : Call} {q : Prog} {x : Byte}

/-- The other setter's steps leave a setter as it is. -/
theorem SetterWaits.of_request {n' : Nat} (h : SetterWaits s n r c q) (hcfg : t.cfg = s.cfg)
    (hid : t.ctlId = s.ctlId) (hr : t.requests[n']? = some r) : SetterWaits t n' r c q :=
  ⟨h.pending.of_request hcfg hr, h.notStuck, h.target.trans hid.symm, h.controller⟩

theorem SetterWaits.view_eq (h : SetterWaits s n r c q) (u : State) : u.view c.usedAlone = u := by
  rw [h.controller, State.view_false]

theorem SetterWaits.took {k : Nat} {q' : Prog} {u : State} (h : SetterWaits s n r c q)
    (htook : Prog.TookIn k q (s.select r) q' u) :
    ∃ ts : List Turn, ts.length = k ∧ Prog.Took q ((s.select r).view c.usedAlone) ts q' u := by
  rwa [h.view_eq]

/-- A chosen setter reads RXFE1 in four steps, and has its write left. -/
theorem SetterWaits.runSteps_read {fd : Field} {code : Nat} (hw : SetterWaits s n r c (setGain fd code))
    (hfd : fd.reg = .rxfe1) (hpicks : s.Picks n 4) (h : SetterReady s (m + 1) x) :
    ∃ t ts, runSteps 4 s = .next t ∧ t.cfg = s.cfg ∧ t.ctlId = s.ctlId ∧ t.schedule = s.schedule.drop 4 ∧
      t.requests = s.requests.set n { r with turns := ts } ∧
      SetterWaits t n { r with turns := ts } c (gainWrite (fd.insert x code)) ∧ SetterReady t m x := by
  obtain ⟨ts, hlen, htook⟩ := hw.took (tookIn_gainRead hfd code (h.select hw.target))
  have hrun := hw.pending.runSteps_took (hlen ▸ hpicks) htook (by rintro rfl; cases hlen)
  rw [hlen] at hrun
  refine ⟨_, _, hrun, by simp, by simp [hw.target], by simp [hlen], rfl,
    ⟨hw.pending.afterTurns htook, hw.notStuck, by simp, hw.controller⟩, ?_⟩
  rw [State.afterTurns, hw.view_eq]
  exact (h.select hw.target).read.of_same rfl rfl rfl rfl rfl rfl rfl

/-- A chosen setter that has its write left writes RXFE1 and returns, in four steps. -/
theorem SetterWaits.runSteps_write {v : Byte} (hw : SetterWaits s n r c (gainWrite v)) (hpicks : s.Picks n 4)
    (h : SetterReady s (m + 1) x) :
    ∃ t, runSteps 4 s = .next t ∧ t.cfg = s.cfg ∧ t.ctlId = s.ctlId ∧ t.schedule = s.schedule.drop 4 ∧
      t.requests = s.requests.eraseIdx n ∧ SetterReady t m v := by
  obtain ⟨ts, hlen, htook⟩ := hw.took (tookIn_gainWrite v (h.select hw.target))
  have hrun := hw.pending.runSteps_done (by rw [hlen]; exact hpicks) htook
  rw [hlen, hw.view_eq] at hrun
  exact ⟨_, hrun, by simp, by simp [hw.target], by simp, by simp,
    ((h.select hw.target).write v).of_same rfl rfl rfl rfl rfl rfl rfl⟩

end

/-! ### The two orders -/

theorem runSteps_add {j k : Nat} {s t u : State} (h : runSteps j s = .next t) (h' : runSteps k t = .next u) :
    runSteps (j + k) s = .next u := by
  induction j generalizing s with
  | zero =>
    cases h
    rwa [Nat.zero_add]
  | succ j ih =>
    rw [Nat.add_right_comm, runSteps]
    rw [runSteps] at h
    cases hstep : step s with
    | next v => rw [hstep] at h; exact ih h
    | fault e => rw [hstep] at h; cases h
    | refused e => rw [hstep] at h; cases h

/-- Of two requests the next choices fall on the one that the schedule names. -/
theorem State.picks_pair {s : State} {a b : Request} {i m : Nat} {ks : List Nat} (hreq : s.requests = [a, b])
    (ha : a.stalled = false) (hb : b.stalled = false) (hne : a.caller ≠ b.caller) (hi : i < 2)
    (hsched : s.schedule = List.replicate m i ++ ks) : s.Picks i m := by
  intro j hj
  have hchoice : s.choiceAt j = i := by
    rw [choiceAt, hsched, List.getElem?_append_left (by simpa using hj)]
    simp [hj]
  rw [hreq, eligible_pair ha hb hne, hchoice]
  have : i = 0 ∨ i = 1 := by omega
  rcases this with rfl | rfl <;> rfl

section
variable {s : State} {a b : Request} {c c' : Call} {fd fd' : Field} {code code' : Nat} {x : Byte}

/-- Where both setters read before either writes, the field that the first one writes is lost (R81, R249). -/
theorem runSteps_readsFirst (hreq : s.requests = [a, b]) (hne : a.caller ≠ b.caller)
    (hwa : SetterWaits s 0 a c (setGain fd code)) (hwb : SetterWaits s 1 b c' (setGain fd' code'))
    (hfd : fd.reg = .rxfe1) (hfd' : fd'.reg = .rxfe1) (hs : SetterReady s 4 x)
    (hsched : s.schedule = List.replicate 4 0 ++ (List.replicate 4 1 ++ List.replicate 4 0)) :
    ∃ t, runSteps 16 s = .next t ∧ t.requests = [] ∧
      Memory.read Reg.rxfe1.addr t.device.regs = some (fd'.insert x code') := by
  have ha := hwa.notStuck
  have hb := hwb.notStuck
  obtain ⟨s₁, ts, h₁, hcfg₁, hid₁, hsched₁, hreq₁, hwa₁, hs₁⟩ :=
    hwa.runSteps_read hfd (State.picks_pair hreq ha hb hne (by decide) hsched) hs
  replace hreq₁ : s₁.requests = [{ a with turns := ts }, b] := by simp [hreq₁, hreq]
  replace hsched₁ : s₁.schedule = List.replicate 4 1 ++ List.replicate 4 0 := by rw [hsched₁, hsched]; rfl
  have hwb₁ := hwb.of_request (n' := 1) hcfg₁ hid₁ (by simp [hreq₁])
  obtain ⟨s₂, ts', h₂, hcfg₂, hid₂, hsched₂, hreq₂, hwb₂, hs₂⟩ :=
    hwb₁.runSteps_read hfd' (State.picks_pair hreq₁ ha hb hne (by decide) hsched₁) hs₁
  replace hreq₂ : s₂.requests = [{ a with turns := ts }, { b with turns := ts' }] := by simp [hreq₂, hreq₁]
  replace hsched₂ : s₂.schedule = List.replicate 4 0 ++ [] := by rw [hsched₂, hsched₁]; rfl
  have hwa₂ := hwa₁.of_request (n' := 0) hcfg₂ hid₂ (by simp [hreq₂])
  obtain ⟨s₃, h₃, hcfg₃, hid₃, -, hreq₃, hs₃⟩ :=
    hwa₂.runSteps_write (State.picks_pair hreq₂ ha hb hne (by decide) hsched₂) hs₂
  replace hreq₃ : s₃.requests = [{ b with turns := ts' }] := by simp [hreq₃, hreq₂]
  have hwb₃ := hwb₂.of_request (n' := 0) hcfg₃ hid₃ (by simp [hreq₃])
  obtain ⟨s₄, h₄, -, -, -, hreq₄, hs₄⟩ := hwb₃.runSteps_write (State.picks_lone hreq₃ hb 4) hs₃
  exact ⟨s₄, runSteps_add h₁ (runSteps_add h₂ (runSteps_add h₃ h₄)), by simp [hreq₄, hreq₃], hs₄.known⟩

/-- Where one setter's write comes before the other's read, both fields are kept (R81, R249). -/
theorem runSteps_oneByOne (hreq : s.requests = [a, b]) (hne : a.caller ≠ b.caller)
    (hwa : SetterWaits s 0 a c (setGain fd code)) (hwb : SetterWaits s 1 b c' (setGain fd' code'))
    (hfd : fd.reg = .rxfe1) (hfd' : fd'.reg = .rxfe1) (hs : SetterReady s 4 x)
    (hsched : s.schedule = List.replicate 4 0 ++ List.replicate 4 0) :
    ∃ t, runSteps 16 s = .next t ∧ t.requests = [] ∧
      Memory.read Reg.rxfe1.addr t.device.regs = some (fd'.insert (fd.insert x code) code') := by
  have ha := hwa.notStuck
  have hb := hwb.notStuck
  obtain ⟨s₁, ts, h₁, hcfg₁, hid₁, hsched₁, hreq₁, hwa₁, hs₁⟩ :=
    hwa.runSteps_read hfd (State.picks_pair hreq ha hb hne (by decide) hsched) hs
  replace hreq₁ : s₁.requests = [{ a with turns := ts }, b] := by simp [hreq₁, hreq]
  replace hsched₁ : s₁.schedule = List.replicate 4 0 ++ [] := by rw [hsched₁, hsched]; rfl
  obtain ⟨s₂, h₂, hcfg₂, hid₂, -, hreq₂, hs₂⟩ :=
    hwa₁.runSteps_write (State.picks_pair hreq₁ ha hb hne (by decide) hsched₁) hs₁
  replace hreq₂ : s₂.requests = [b] := by simp [hreq₂, hreq₁]
  have hwb₂ := hwb.of_request (n' := 0) (hcfg₂.trans hcfg₁) (hid₂.trans hid₁) (by simp [hreq₂])
  obtain ⟨s₃, ts', h₃, -, -, -, hreq₃, hwb₃, hs₃⟩ :=
    hwb₂.runSteps_read hfd' (State.picks_lone hreq₂ hb 4) hs₂
  replace hreq₃ : s₃.requests = [{ b with turns := ts' }] := by simp [hreq₃, hreq₂]
  obtain ⟨s₄, h₄, -, -, -, hreq₄, hs₄⟩ := hwb₃.runSteps_write (State.picks_lone hreq₃ hb 4) hs₃
  exact ⟨s₄, runSteps_add h₁ (runSteps_add h₂ (runSteps_add h₃ h₄)), by simp [hreq₄, hreq₃], hs₄.known⟩

end

/-- The race of `setLnaGain` and `setPgaGain`, in both orders (R81, R249). -/
theorem gainRace {s : State} {c c' : Nat} {g g' : Rat} {r : Byte} (hser : s.cfg.serialized = false)
    (hcoherent : s.cfg.deviceCoherent = true) (hsession : s.inSession = true) (hhazard : s.hazardNext = false)
    (hne : c ≠ c') (hanswers : s.answersOk [2, 2, 2, 2] = true) (hknown : Memory.read 0x0C s.device.regs = some r)
    (hreq : s.requests = [⟨c, s.ctlId, .call (.op (.setLnaGain g)), [], false⟩,
      ⟨c', s.ctlId, .call (.op (.setPgaGain g')), [], false⟩]) :
    (∃ ks t, runSteps 16 { s with schedule := ks } = .next t ∧ t.requests = [] ∧
      Memory.read 0x0C t.device.regs = some ((r &&& 0xE1) ||| BitVec.ofNat 8 (encodePga g' * 2))) ∧
    ∃ ks t, runSteps 16 { s with schedule := ks } = .next t ∧ t.requests = [] ∧
      Memory.read 0x0C t.device.regs = some ((r &&& 0x01) ||| BitVec.ofNat 8 (encodeLna g * 2 ^ 5)
        ||| BitVec.ofNat 8 (encodePga g' * 2)) := by
  obtain ⟨⟨hphase, hspi⟩, -⟩ : (s.ctl.phase = .ready ∧ s.ctl.spi.isOpen = true) ∧ s.ctl.gpio.isOpen = true := by
    simpa [State.inSession] using hsession
  have hready : SetterReady s 4 r := ⟨hcoherent, hphase, hspi, hhazard, hanswers, hknown⟩
  have hready' : ∀ ks, SetterReady { s with schedule := ks } 4 r :=
    fun ks => hready.of_same rfl rfl rfl rfl rfl rfl rfl
  have hlna : ∀ ks, SetterWaits { s with schedule := ks } 0 ⟨c, s.ctlId, .call (.op (.setLnaGain g)), [], false⟩
      (.op (.setLnaGain g)) (setGain lnaField (encodeLna g)) :=
    fun ks => ⟨pending_whole hser (by simp [hreq]) rfl (fetchCall_op rfl rfl), rfl, rfl, rfl⟩
  have hpga : ∀ ks, SetterWaits { s with schedule := ks } 1 ⟨c', s.ctlId, .call (.op (.setPgaGain g')), [], false⟩
      (.op (.setPgaGain g')) (setGain pgaField (encodePga g')) :=
    fun ks => ⟨pending_whole hser (by simp [hreq]) rfl (fetchCall_op rfl rfl), rfl, rfl, rfl⟩
  constructor
  · refine ⟨List.replicate 4 0 ++ (List.replicate 4 1 ++ List.replicate 4 0), ?_⟩
    rw [← pgaField_insert r (encodePga_le g')]
    exact runSteps_readsFirst hreq hne (hlna _) (hpga _) rfl rfl (hready' _) rfl
  · refine ⟨List.replicate 4 0 ++ List.replicate 4 0, ?_⟩
    rw [← pgaField_insert_lnaField_insert r (encodeLna_le g) (encodePga_le g')]
    exact runSteps_oneByOne hreq hne (hlna _) (hpga _) rfl rfl (hready' _) rfl

/-- Settles O52: a run is the turns it is cut into, whatever waits beside it, so that a lone call's steps add up to
it; any call that may go on has a choice that falls on it, and the step is then its turn; and two setters of RXFE1,
each a read and a write, meet in both orders. -/
theorem unserializedCalls : Obligations.UnserializedCalls := by
  refine ⟨fun s r c res u hser hreq hturns hstalled hfetch hrun => ?_,
    fun s n r hr hstalled hfirst => State.exists_nextRequest hr hstalled hfirst,
    fun s n r c hser hnext hfetch => ⟨fun res hdone => step_of_done hser hnext hfetch hdone,
      fun p k hleft reply u hperform => step_of_turned hser hnext hfetch (by rw [hleft]; exact .act hperform),
      fun q k hleft res u hrun => step_of_turned hser hnext hfetch (by rw [hleft]; exact .whole hrun)⟩,
    fun s c c' g g' r hser hcoherent hsession hhazard hne hanswers hknown hreq =>
      gainRace hser hcoherent hsession hhazard hne hanswers hknown hreq⟩
  obtain ⟨k, ks, m, hsteps⟩ := runSteps_lone hser hreq hturns hstalled hfetch hrun
  have hframe := SameFrame.of_done hrun
  refine ⟨k, _, hsteps, ?_, ?_, ⟨rfl, rfl⟩, ?_, ?_, ?_, rfl⟩
  · simp [hframe.returns, hframe.caller]
  all_goals simp

end Sys2Proof.Machine
end

section
/-! Bytes and words (R90 to R101): an address byte gives its parts back, a field insertion moves its own field alone,
and a tuning word is its three bytes. -/

namespace Sys2Proof

/-! ### Address bytes (R90) -/

/-- The address byte reads back as the direction and the address, for every address of seven bits. -/
theorem addressByte_parts_of_lt {a : Nat} (w : Bool) (h : a < 0x80) :
    isWrite (addressByte w a) = w ∧ frameAddr (addressByte w a) = a := by
  have key : ∀ a < 0x80, ∀ w, isWrite (addressByte w a) = w ∧ frameAddr (addressByte w a) = a := by decide
  exact key a h w

/-! ### Field insertion (R98, R101) -/

/-- Inside the mask an insertion leaves the code alone. -/
theorem insertField_and_mask (r m : Byte) (sh c : Nat) :
    insertField r m sh c &&& m = (BitVec.ofNat 8 c <<< sh) &&& m := by
  have cleared : ~~~m &&& m = 0 := by rw [BitVec.and_comm, BitVec.and_not_self]
  simp [insertField, BitVec.and_or_distrib_right, BitVec.and_assoc, cleared]

/-- Outside the mask an insertion changes no bit. -/
theorem insertField_and_not_mask (r m : Byte) (sh c : Nat) : insertField r m sh c &&& ~~~m = r &&& ~~~m := by
  simp [insertField, BitVec.and_or_distrib_right, BitVec.and_assoc]

/-- What a field holds after an insertion does not depend on the byte it was inserted in. -/
theorem Field.extract_insert (fd : Field) (r : Byte) (c : Nat) :
    fd.extract (fd.insert r c) = (((BitVec.ofNat 8 c <<< fd.shift) &&& fd.mask) >>> fd.shift).toNat := by
  rw [extract, insert, insertField_and_mask]

theorem lnaField_extract_insert (r : Byte) {c : Nat} (h : c < 8) : lnaField.extract (lnaField.insert r c) = c := by
  have key : ∀ c < 8, (((BitVec.ofNat 8 c <<< 5) &&& (0xE0 : Byte)) >>> 5).toNat = c := by decide
  exact (lnaField.extract_insert r c).trans (key c h)

theorem pgaField_extract_insert (r : Byte) {c : Nat} (h : c < 16) : pgaField.extract (pgaField.insert r c) = c := by
  have key : ∀ c < 16, (((BitVec.ofNat 8 c <<< 1) &&& (0x1E : Byte)) >>> 1).toNat = c := by decide
  exact (pgaField.extract_insert r c).trans (key c h)

theorem dacField_extract_insert (r : Byte) {c : Nat} (h : c < 8) : dacField.extract (dacField.insert r c) = c := by
  have key : ∀ c < 8, (((BitVec.ofNat 8 c <<< 4) &&& (0x70 : Byte)) >>> 4).toNat = c := by decide
  exact (dacField.extract_insert r c).trans (key c h)

theorem mixerField_extract_insert (r : Byte) {c : Nat} (h : c < 16) :
    mixerField.extract (mixerField.insert r c) = c := by
  have key : ∀ c < 16, (((BitVec.ofNat 8 c <<< 0) &&& (0x0F : Byte)) >>> 0).toNat = c := by decide
  exact (mixerField.extract_insert r c).trans (key c h)

/-! ### The tuning word (R100) -/

/-- The three bytes of a word lie side by side. -/
theorem joinWord_eq (h m l : Byte) : joinWord h m l = h.toNat * 2 ^ 16 + m.toNat * 2 ^ 8 + l.toNat := by
  have hm := m.isLt
  have hl := l.isLt
  have high : h.toNat <<< 16 ||| m.toNat <<< 8 = (h.toNat <<< 8 + m.toNat) <<< 8 := by
    rw [Nat.shiftLeft_add_eq_or_of_lt hm, Nat.shiftLeft_or_distrib, ← Nat.shiftLeft_add]
  rw [joinWord, high, ← Nat.shiftLeft_add_eq_or_of_lt hl]
  simp only [Nat.shiftLeft_eq]
  omega

theorem toNat_wordMsb {w : Nat} (h : w < 2 ^ 24) : (wordMsb w).toNat = w / 2 ^ 16 := by
  rw [wordMsb, BitVec.toNat_ofNat, Nat.shiftRight_eq_div_pow]; omega

theorem toNat_wordMid (w : Nat) : (wordMid w).toNat = w / 2 ^ 8 % 2 ^ 8 := by
  rw [wordMid, BitVec.toNat_ofNat, Nat.shiftRight_eq_div_pow]

theorem toNat_wordLsb (w : Nat) : (wordLsb w).toNat = w % 2 ^ 8 := BitVec.toNat_ofNat w 8

theorem joinWord_split {w : Nat} (h : w < 2 ^ 24) : joinWord (wordMsb w) (wordMid w) (wordLsb w) = w := by
  rw [joinWord_eq, toNat_wordMsb h, toNat_wordMid, toNat_wordLsb]; omega

theorem wordMsb_joinWord (h m l : Byte) : wordMsb (joinWord h m l) = h := by
  have hw : joinWord h m l < 2 ^ 24 := by rw [joinWord_eq]; have := h.isLt; have := m.isLt; have := l.isLt; omega
  refine BitVec.eq_of_toNat_eq ?_
  rw [toNat_wordMsb hw, joinWord_eq]
  have := m.isLt; have := l.isLt
  omega

theorem wordMid_joinWord (h m l : Byte) : wordMid (joinWord h m l) = m := by
  refine BitVec.eq_of_toNat_eq ?_
  rw [toNat_wordMid, joinWord_eq]
  have := m.isLt; have := l.isLt
  omega

theorem wordLsb_joinWord (h m l : Byte) : wordLsb (joinWord h m l) = l := by
  refine BitVec.eq_of_toNat_eq ?_
  rw [toNat_wordLsb, joinWord_eq]
  have := l.isLt
  omega

end Sys2Proof

namespace Sys2Proof.Machine

/-- Settles O1: the layouts are the builders' own, and an address in range is one of seven bits. -/
theorem frameLayouts : Obligations.FrameLayouts := by
  intro a v vs n
  refine ⟨rfl, rfl, rfl, rfl, rfl, rfl, fun ha => ?_⟩
  obtain ⟨hwrite, hwriteAddr⟩ := addressByte_parts true ha
  obtain ⟨hread, hreadAddr⟩ := addressByte_parts false ha
  exact ⟨hwrite, hwriteAddr, hread, hreadAddr⟩

/-- Settles O9: the three bytes of a word lie side by side, so that taking them apart and joining them are inverse. -/
theorem wordSplitAndJoin : Obligations.WordSplitAndJoin :=
  ⟨fun w hw => ⟨toNat_wordMsb hw, toNat_wordMid w, toNat_wordLsb w, joinWord_split hw⟩,
    fun h m l => ⟨joinWord_eq h m l, wordMsb_joinWord h m l, wordMid_joinWord h m l, wordLsb_joinWord h m l⟩⟩

/-- Settles O10: inside its mask an insertion is the code and outside it the byte; the MODE bits are single ones. -/
theorem fieldPacking : Obligations.FieldPacking :=
  ⟨fun _ _ _ _ => rfl,
    fun r c => ⟨lnaField_extract_insert r, pgaField_extract_insert r, dacField_extract_insert r,
      mixerField_extract_insert r, insertField_and_not_mask r 0xE0 5 c, insertField_and_not_mask r 0x1E 1 c,
      insertField_and_not_mask r 0x70 4 c, insertField_and_not_mask r 0x0F 0 c⟩,
    fun _ => ⟨rfl, rfl, rfl, rfl, rfl, rfl, rfl, rfl⟩, by decide⟩

/-- Settles O3: each word is the frames of its bits, run through the frame decoder. -/
theorem tableWordsDecode : Obligations.TableWordsDecode := by
  refine ⟨?_, ?_, ?_, ?_, ?_, ?_, ?_, ?_, ?_, ?_⟩ <;> decide +kernel

end Sys2Proof.Machine
end

section
/-! The frame decoder on the frames an operation sends (R91 to R94, R108; assumption 2). -/

namespace Sys2Proof

/-! ### The first frame -/

section
variable {fxosc a : Nat} {table : List Host.Cell} {rest : List Frame}

theorem decodeFrames_writeFrame (d : Byte) (ha : a < 0x80) (hlen : rest.length ≠ 16) :
    decodeFrames fxosc table (writeFrame a d :: rest) = decodeWrite fxosc a d rest := by
  obtain ⟨hwrite, haddr⟩ := addressByte_parts_of_lt true ha
  simp [decodeFrames, writeFrame, hlen, hwrite, haddr]

theorem decodeFrames_readFrame (ha : a < 0x80) (hlen : rest.length ≠ 16) :
    decodeFrames fxosc table (readFrame a :: rest) = decodeRead a rest := by
  obtain ⟨hread, haddr⟩ := addressByte_parts_of_lt false ha
  simp [decodeFrames, readFrame, hlen, hread, haddr]

/-- A burst write of one byte is the single write (R96), and any other is read as a burst. -/
theorem decodeFrames_burstWriteFrame {vs : List Byte} (ha : a < 0x80) (hlen : vs.length ≠ 1) :
    decodeFrames fxosc table [burstWriteFrame a vs] = .ok (.burstWrite a vs) := by
  obtain ⟨hwrite, haddr⟩ := addressByte_parts_of_lt true ha
  match vs, hlen with
  | [], _ => simp [decodeFrames, burstWriteFrame, hwrite, haddr]
  | v :: w :: vs, _ => simp [decodeFrames, burstWriteFrame, hwrite, haddr]

/-- A burst read of one byte is the single read (R96), and any other is read as a burst. -/
theorem decodeFrames_burstReadFrame {n : Nat} (ha : a < 0x80) (hn : n ≠ 1) :
    decodeFrames fxosc table [burstReadFrame a n] = .ok (.burstRead a n) := by
  obtain ⟨hread, haddr⟩ := addressByte_parts_of_lt false ha
  match n, hn with
  | 0, _ => simp [decodeFrames, burstReadFrame, hread, haddr]
  | n + 2, _ =>
    simp [decodeFrames, burstReadFrame, hread, haddr, List.replicate_succ]
    omega

end

/-! ### The later frames -/

@[simp] theorem laterByte_writeFrame (a : Nat) (d : Byte) :
    laterByte (addressByte true a) (writeFrame a d) = some d := by simp [laterByte, writeFrame]

@[simp] theorem laterByte_readFrame (a : Nat) : laterByte (addressByte false a) (readFrame a) = some 0 := by
  simp [laterByte, readFrame]

/-- The two later frames of a tuning word complete it. -/
theorem laterWord_split (first : Reg) {w : Nat} (h : w < 2 ^ 24) :
    laterWord first (wordMsb w)
      [writeFrame (first.addr + 1) (wordMid w), writeFrame (first.addr + 2) (wordLsb w)] = some w := by
  simp [laterWord, joinWord_split h]

theorem laterReads_readFrame (first : Reg) :
    laterReads first [readFrame (first.addr + 1), readFrame (first.addr + 2)] = true := by
  simp [laterReads]

/-! ### Whole patterns -/

section
variable (fxosc : Nat) (table : List Host.Cell)

theorem decodeFrames_setMode (m : Byte) :
    decodeFrames fxosc table [writeFrame Reg.mode.addr m] = .ok (modeWrite m) := by
  rw [decodeFrames_writeFrame m (by decide) (by decide)]
  simp [decodeWrite]

/-- A read-modify-write is read from its write: an operation of MODE, RXFE1 or TXFE1. -/
theorem decodeFrames_rmwFrames (reg : Reg) (r' : Byte) (hreg : reg.addr < 0x80) :
    decodeFrames fxosc table (rmwFrames reg r') =
      if reg.addr = Reg.mode.addr then .ok (.enableRx (r'.getLsbD ModeBit.rx.index))
      else if reg.addr = Reg.rxfe1.addr then .ok (rxfe1Write r')
      else if reg.addr = Reg.txfe1.addr then .ok (txfe1Write r')
      else .error .unknownSequence := by
  rw [rmwFrames, decodeFrames_readFrame hreg (by simp)]
  simp [decodeRead]

/-- The three writes of a tuning word give the frequency that the word stands for. -/
theorem decodeFrames_setRxFrequency {w : Nat} (h : w < 2 ^ 24) :
    decodeFrames fxosc table (wordFrames .frfhRx w) = .ok (.setRxFrequency (wordHz fxosc w)) := by
  rw [wordFrames, decodeFrames_writeFrame _ (by decide) (by simp), decodeWrite, laterWord_split _ h]
  simp [Reg.addr]

theorem decodeFrames_setTxFrequency {w : Nat} (h : w < 2 ^ 24) :
    decodeFrames fxosc table (wordFrames .frfhTx w) = .ok (.setTxFrequency (wordHz fxosc w)) := by
  rw [wordFrames, decodeFrames_writeFrame _ (by decide) (by simp), decodeWrite, laterWord_split _ h]
  simp [Reg.addr]

theorem decodeFrames_getRxFrequency : decodeFrames fxosc table (wordReads .frfhRx) = .ok .getRxFrequency := by
  rw [wordReads, decodeFrames_readFrame (by decide) (by simp), decodeRead, laterReads_readFrame] <;> simp

theorem decodeFrames_getTxFrequency : decodeFrames fxosc table (wordReads .frfhTx) = .ok .getTxFrequency := by
  rw [wordReads, decodeFrames_readFrame (by decide) (by simp), decodeRead, laterReads_readFrame] <;> simp [Reg.addr]

end

/-- The write of `DEFAULT_TABLE` is the one pattern of 17 frames (R205). -/
theorem decodeFrames_initializeWithDefaults (fxosc : Nat) {table : List Host.Cell} (h : table.length = 17) :
    decodeFrames fxosc table (table.map fun e => writeFrame e.1 e.2) = .ok .initializeWithDefaults := by
  simp [decodeFrames, h]

/-! ### Operands -/

theorem modeWrite_of_unnamed {m : Byte}
    (h : m ∉ [NamedMode.sleep, .standby, .rx, .tx, .txFull, .fullDuplex].map NamedMode.value) :
    modeWrite m = .setMode m := by
  simp only [List.map_cons, List.map_nil, List.mem_cons, List.not_mem_nil, or_false, not_or] at h
  obtain ⟨hsleep, hstandby, hrx, htx, htxFull, hfullDuplex⟩ := h
  simp [modeWrite, hsleep, hstandby, hrx, htx, htxFull, hfullDuplex]

/-- The enable bit that a write of MODE leaves (R99). -/
theorem getLsbD_putModeBit (r : Byte) (b : ModeBit) (on : Bool) : (putModeBit r b on).getLsbD b.index = on := by
  cases on <;> cases b <;> simp [putModeBit, setModeBit, clearModeBit, ModeBit.mask, ModeBit.index]

/-- An LNA gain that is the highest of its row is read back from its code (R165). -/
theorem rxfe1Write_insert (r : Byte) {g : Rat} (h : lnaDb (encodeLna g) = some g) :
    rxfe1Write (lnaField.insert r (encodeLna g)) = .setLnaGain g := by
  have hcode : encodeLna g < 8 := by have := encodeLna_le g; omega
  rw [rxfe1Write, lnaField_extract_insert r hcode, h]

/-- The codes of the exact DAC values are those values' distance from −9 dB, in steps of 3 dB (R169). -/
theorem encodeDac_of_mem {g : Rat} (h : g ∈ dacTable.map Prod.fst) :
    encodeDac g ≤ 3 ∧ 3 * (encodeDac g : Rat) - 9 = g := by
  have key : ∀ g ∈ dacTable.map Prod.fst, encodeDac g ≤ 3 ∧ 3 * (encodeDac g : Rat) - 9 = g := by decide +kernel
  exact key g h

theorem txfe1Write_insert (r : Byte) {g : Rat} (h : g ∈ dacTable.map Prod.fst) :
    txfe1Write (dacField.insert r (encodeDac g)) = .setDacGain g := by
  obtain ⟨hcode, hg⟩ := encodeDac_of_mem h
  rw [txfe1Write, dacField_extract_insert r (by omega), if_pos hcode, hg]

end Sys2Proof

namespace Sys2Proof.Machine

/-- Settles O4: the first frame names the pattern, and the data bytes hold the operands that the pattern's owner can
have. -/
theorem framesDecodeBack : Obligations.FramesDecodeBack := by
  intro fxosc table r i htable howns
  cases i with
  | writeRegister a v =>
    obtain ⟨ha, hmode⟩ : a < 0x80 ∧ a ≠ Reg.mode.addr := by simpa [ownsFrames] using howns
    rw [framesOf, decodeFrames_writeFrame v ha (by simp)]
    simp [decodeWrite, hmode]
  | readRegister a =>
    obtain ⟨⟨⟨ha, hmode⟩, hversion⟩, hstat⟩ :
        ((a < 0x80 ∧ a ≠ Reg.mode.addr) ∧ a ≠ Reg.version.addr) ∧ a ≠ Reg.stat.addr := by
      simpa [ownsFrames] using howns
    rw [framesOf, decodeFrames_readFrame ha (by simp)]
    simp [decodeRead, hmode, hversion, hstat]
  | burstWrite a vs =>
    obtain ⟨ha, hlen⟩ : a < 0x80 ∧ vs.length ≠ 1 := by simpa [ownsFrames] using howns
    exact decodeFrames_burstWriteFrame ha hlen
  | burstRead a n =>
    obtain ⟨⟨ha, hpos⟩, hone⟩ : (a < 0x80 ∧ 0 ≤ n) ∧ n ≠ 1 := by simpa [ownsFrames] using howns
    lift n to Nat using hpos
    exact decodeFrames_burstReadFrame ha (by simpa using hone)
  | checkDevice | getMode | getStatus =>
    rw [framesOf, decodeFrames_readFrame (by decide) (by simp)]
    simp [decodeRead, Reg.addr]
  | setMode m =>
    have hunnamed : m ∉ [NamedMode.sleep, .standby, .rx, .tx, .txFull, .fullDuplex].map NamedMode.value := by
      simpa only [ownsFrames, Bool.not_eq_true', List.contains_eq_mem, decide_eq_false_iff_not] using howns
    rw [framesOf, decodeFrames_setMode, modeWrite_of_unnamed hunnamed]
  | setModeSleep | setModeStandby | setModeRx | setModeTx | setModeTxFull | setModeFullDuplex =>
    rw [framesOf, decodeFrames_setMode]
    rfl
  | enableRx on =>
    rw [framesOf, decodeFrames_rmwFrames _ _ _ _ (by decide), if_pos rfl, getLsbD_putModeBit]
  | setLnaGain g =>
    have hrow : lnaDb (encodeLna g) = some g := by simpa [ownsFrames] using howns
    rw [framesOf, decodeFrames_rmwFrames _ _ _ _ (by decide), if_neg (by decide), if_pos rfl, rxfe1Write_insert r hrow]
  | setDacGain g =>
    have hexact : g ∈ dacTable.map Prod.fst := by
      simpa only [ownsFrames, List.contains_eq_mem, decide_eq_true_eq] using howns
    rw [framesOf, decodeFrames_rmwFrames _ _ _ _ (by decide), if_neg (by decide), if_neg (by decide), if_pos rfl,
      txfe1Write_insert r hexact]
  | setRxFrequency f =>
    obtain ⟨hw, hf⟩ : tuningWord fxosc f < 2 ^ 24 ∧ wordHz fxosc (tuningWord fxosc f) = f := by
      simpa [ownsFrames] using howns
    rw [framesOf, decodeFrames_setRxFrequency _ _ hw, hf]
  | setTxFrequency f =>
    obtain ⟨hw, hf⟩ : tuningWord fxosc f < 2 ^ 24 ∧ wordHz fxosc (tuningWord fxosc f) = f := by
      simpa [ownsFrames] using howns
    rw [framesOf, decodeFrames_setTxFrequency _ _ hw, hf]
  | getRxFrequency => exact decodeFrames_getRxFrequency fxosc table
  | getTxFrequency => exact decodeFrames_getTxFrequency fxosc table
  | initializeWithDefaults => exact decodeFrames_initializeWithDefaults fxosc htable
  | _ => cases howns

end Sys2Proof.Machine
end

section
/-! No step sends an illegal frame (R89, R97, R111): every transfer of every program is of a frame that its checks
have let through. -/

namespace Sys2Proof.Machine

/-- A primitive that sends only what the block may send (R89, R97, R111). -/
def Prim.sendsLegal : Prim → Prop
  | .xfer tx => legalFrame tx = true
  | _ => True

/-! ### Programs -/

namespace Prog

/-- Every frame the program can send is one the block may send. -/
abbrev SendsLegal (q : Prog) : Prop := q.Acts Prim.sendsLegal

/-- A program's next turn does nothing that the program does not. -/
theorem Acts.oneTurn {C : Prim → Prop} {q : Prog} (hq : q.Acts C) : q.oneTurn.Acts C := by
  cases q with
  | done | refuse => trivial
  | act p k => exact ⟨hq.1, fun _ => trivial⟩
  | whole q k => exact ⟨hq.1, fun _ => trivial⟩

theorem Acts.look {C : Prim → Prop} {k : Controller → Prog} (hlook : C .look) (hk : ∀ c, (k c).Acts C) :
    (look k).Acts C :=
  ⟨hlook, fun r => hk r.ctl⟩

theorem Acts.ite {C : Prim → Prop} {p : Prop} [Decidable p] {q q' : Prog} (hq : p → q.Acts C)
    (hq' : ¬p → q'.Acts C) : (if p then q else q').Acts C := by
  split
  · next h => exact hq h
  · next h => exact hq' h

theorem Acts.uninterrupted {C : Prim → Prop} {q : Prog} (hq : q.Acts C) : (Prog.uninterrupted q).Acts C :=
  ⟨hq, fun _ => trivial⟩

end Prog

/-! ### Checks and transfers -/

section
variable {q : Prog}

theorem sendsLegal_requireReady (hq : q.SendsLegal) : (requireReady q).SendsLegal :=
  .look trivial fun _ => .ite (fun _ => hq.bind fun _ => trivial) fun _ => trivial

theorem sendsLegal_requireSpi (hq : q.SendsLegal) : (requireSpi q).SendsLegal :=
  .look trivial fun _ => .ite (fun _ => hq) fun _ => trivial

theorem sendsLegal_requireGpio (hq : q.SendsLegal) : (requireGpio q).SendsLegal :=
  .look trivial fun _ => .ite (fun _ => hq) fun _ => trivial

/-- Behind the range check only frames in range are sent (R116). -/
theorem sendsLegal_requireRange {start n : Nat} (hq : inRange start n = true → q.SendsLegal) :
    (requireRange start n q).SendsLegal :=
  .ite hq fun _ => trivial

theorem sendsLegal_requireFxosc (cfg : Config) (hq : q.SendsLegal) : (requireFxosc cfg q).SendsLegal :=
  .ite (fun _ => hq) fun _ => trivial

theorem sendsLegal_spiTransfer {tx : Frame} {next : Frame → Prog} (htx : legalFrame tx = true)
    (hnext : ∀ rx, (next rx).SendsLegal) : (spiTransfer tx next).SendsLegal :=
  ⟨htx, fun _ => .ite (fun _ => trivial) fun _ => .ite (fun _ => trivial) fun _ => ⟨trivial, fun _ => hnext _⟩⟩

/-! ### Register steps -/

theorem sendsLegal_writeReg (addr : Nat) (value : Byte) (hq : q.SendsLegal) : (writeReg addr value q).SendsLegal :=
  sendsLegal_requireSpi <| sendsLegal_requireRange fun h =>
    sendsLegal_spiTransfer (legalFrame_write value (Prog.inRange_one.mp h)) fun _ => hq

theorem sendsLegal_readReg (addr : Nat) {next : Byte → Prog} (hnext : ∀ r, (next r).SendsLegal) :
    (readReg addr next).SendsLegal := by
  refine sendsLegal_requireSpi <| sendsLegal_requireRange fun h =>
    sendsLegal_spiTransfer (legalFrame_read (Prog.inRange_one.mp h)) fun rx => ?_
  split
  · exact hnext _
  · trivial

theorem sendsLegal_returnReg (addr : Nat) : (returnReg addr).SendsLegal := sendsLegal_readReg addr fun _ => trivial

theorem sendsLegal_burstWrite (start : Nat) (values : List Byte) : (progBurstWrite start values).SendsLegal :=
  sendsLegal_requireSpi <| .ite (fun _ => trivial) fun hv => sendsLegal_requireRange fun h =>
    sendsLegal_spiTransfer (legalFrame_burstWrite hv h) fun _ => trivial

theorem sendsLegal_burstRead (start : Nat) (count : Int) : (progBurstRead start count).SendsLegal :=
  sendsLegal_requireSpi <| .ite (fun _ => trivial) fun hn => sendsLegal_requireRange fun h =>
    sendsLegal_spiTransfer (legalFrame_burstRead (by omega) h) fun _ => trivial

theorem sendsLegal_readModifyWrite (reg : Reg) (update : Byte → Byte) : (readModifyWrite reg update).SendsLegal :=
  sendsLegal_readReg _ fun _ => sendsLegal_writeReg _ _ trivial

theorem sendsLegal_writeTable (table : List Host.Cell) : (writeTable table).SendsLegal := by
  induction table with
  | nil => trivial
  | cons e rest ih => exact sendsLegal_writeReg _ _ ih

theorem sendsLegal_setFrequency (cfg : Config) (first : Reg) (f : Nat) : (setFrequency cfg first f).SendsLegal :=
  sendsLegal_requireFxosc _ <| sendsLegal_requireReady <| .ite
    (fun _ => sendsLegal_writeReg _ _ (sendsLegal_writeReg _ _ (sendsLegal_writeReg _ _ trivial))) fun _ => trivial

theorem sendsLegal_getFrequency (cfg : Config) (first : Reg) : (getFrequency cfg first).SendsLegal :=
  sendsLegal_requireFxosc _ <| sendsLegal_requireReady <|
    sendsLegal_readReg _ fun _ => sendsLegal_readReg _ fun _ => sendsLegal_readReg _ fun _ => trivial

theorem sendsLegal_setGain (fd : Field) (code : Nat) : (setGain fd code).SendsLegal :=
  sendsLegal_requireReady (sendsLegal_readModifyWrite _ _)

theorem sendsLegal_enableBit (b : ModeBit) (on : Bool) : (enableBit b on).SendsLegal :=
  sendsLegal_requireReady (sendsLegal_readModifyWrite _ _)

theorem sendsLegal_writeMode (m : Byte) : (writeMode m).SendsLegal :=
  sendsLegal_requireReady (sendsLegal_writeReg _ _ trivial)

/-! ### Lines, opens and closes send nothing -/

theorem sendsLegal_driveLine (pin : Pin) (level : Bool) {next : Nat → Prog} (hnext : ∀ n, (next n).SendsLegal) :
    (driveLine pin level next).SendsLegal :=
  ⟨trivial, fun _ => .ite (fun _ => hnext _) fun _ => trivial⟩

theorem sendsLegal_readLine (pin : Pin) : (readLine pin).SendsLegal :=
  ⟨trivial, fun _ => .ite (fun _ => trivial) fun _ => trivial⟩

theorem sendsLegal_pulseReset : pulseReset.SendsLegal :=
  sendsLegal_requireGpio <| sendsLegal_driveLine _ _ fun _ => ⟨trivial, fun _ =>
    sendsLegal_driveLine _ _ fun _ => ⟨trivial, fun _ => trivial⟩⟩

theorem sendsLegal_driveTxRx (level : Bool) : (driveTxRx level).SendsLegal :=
  sendsLegal_requireGpio (sendsLegal_driveLine _ _ fun _ => trivial)

theorem sendsLegal_readTxRx : readTxRx.SendsLegal := sendsLegal_requireGpio (sendsLegal_readLine _)

theorem sendsLegal_openTransport : openTransport.SendsLegal :=
  .look trivial fun _ => .ite (fun _ => trivial) fun _ =>
    ⟨trivial, fun _ => .ite (fun _ => ⟨trivial, fun _ => trivial⟩) fun _ => trivial⟩

theorem sendsLegal_closeTransport : closeTransport.SendsLegal :=
  .look trivial fun _ => .ite
    (fun _ => ⟨trivial, fun _ => ⟨trivial, fun _ => .ite (fun _ => trivial) fun _ => trivial⟩⟩) fun _ => trivial

theorem sendsLegal_openSequencer (chip : Path) (resetPin txRxPin : Nat) :
    (openSequencer chip resetPin txRxPin).SendsLegal :=
  .look trivial fun _ => .ite (fun _ => trivial) fun _ =>
    ⟨trivial, fun _ => .ite (fun _ => trivial) fun _ =>
      ⟨trivial, fun _ => .ite (fun _ => ⟨trivial, fun _ => trivial⟩) fun _ =>
        ⟨trivial, fun _ => .ite (fun _ => ⟨trivial, fun _ => ⟨trivial, fun _ => trivial⟩⟩) fun _ =>
          ⟨trivial, fun _ => ⟨trivial, fun _ => ⟨trivial, fun _ => ⟨trivial, fun _ => trivial⟩⟩⟩⟩⟩⟩⟩

theorem sendsLegal_closeSequencer : closeSequencer.SendsLegal := by
  refine .look trivial fun c => .ite (fun _ => ?_) fun _ => trivial
  refine ⟨trivial, fun r₁ => ⟨trivial, fun r₂ => ⟨trivial, fun r₃ => ⟨trivial, fun _ => ?_⟩⟩⟩⟩
  dsimp only
  split <;> trivial

theorem sendsLegal_openSession (cfg : Config) : (openSession cfg).SendsLegal := by
  refine .uninterrupted <| .look trivial fun c => .ite (fun _ => trivial) fun _ => ?_
  refine sendsLegal_openTransport.bind fun r₁ => ?_
  cases r₁ with
  | err e => trivial
  | ok v =>
    refine (sendsLegal_openSequencer _ _ _).bind fun r₂ => ?_
    cases r₂ with
    | err e => exact sendsLegal_closeTransport.bind fun _ => trivial
    | ok v => exact ⟨trivial, fun _ => trivial⟩

theorem sendsLegal_closeSession : closeSession.SendsLegal := by
  refine .uninterrupted (sendsLegal_requireReady ?_)
  refine sendsLegal_closeSequencer.bind fun r₁ => sendsLegal_closeTransport.bind fun r₂ => ⟨trivial, fun _ => ?_⟩
  dsimp only
  split <;> trivial

end

/-! ### Operations and calls -/

theorem sendsLegal_programOf (cfg : Config) (i : Instr) : (programOf cfg i).SendsLegal := by
  cases i with
  | spiOpen => exact sendsLegal_openTransport.uninterrupted
  | spiClose => exact sendsLegal_closeTransport.uninterrupted
  | gpioOpen chip resetPin txRxPin => exact (sendsLegal_openSequencer chip resetPin txRxPin).uninterrupted
  | gpioClose => exact sendsLegal_closeSequencer.uninterrupted
  | openController => exact sendsLegal_openSession cfg
  | closeController => exact sendsLegal_closeSession
  | writeRegister a v => exact sendsLegal_writeReg a v trivial
  | readRegister a => exact sendsLegal_returnReg a
  | burstWrite start values => exact sendsLegal_burstWrite start values
  | burstRead start count => exact sendsLegal_burstRead start count
  | checkDevice => exact sendsLegal_returnReg _
  | reset => exact sendsLegal_pulseReset
  | setResetPin level => exact sendsLegal_requireGpio (sendsLegal_driveLine _ _ fun _ => trivial)
  | getResetPin => exact sendsLegal_requireGpio (sendsLegal_readLine _)
  | setTxRxPin level => exact sendsLegal_driveTxRx level
  | getTxRxPin => exact sendsLegal_readTxRx
  | setRxFrequency f | setTxFrequency f => exact sendsLegal_setFrequency cfg _ f
  | getRxFrequency | getTxFrequency => exact sendsLegal_getFrequency cfg _
  | setLnaGain | setPgaGain | setDacGain | setMixerGain => exact sendsLegal_setGain _ _
  | enableRx on | enableTx on | enablePA on => exact sendsLegal_enableBit _ on
  | setMode m => exact sendsLegal_writeMode m
  | setModeSleep | setModeStandby | setModeRx | setModeTx | setModeTxFull | setModeFullDuplex =>
    exact sendsLegal_writeMode _
  | getMode | probe => exact sendsLegal_requireReady (sendsLegal_returnReg _)
  | getStatus | getVersion => exact sendsLegal_requireReady (sendsLegal_readReg _ fun _ => trivial)
  | setTxRxSwitch on => exact sendsLegal_requireReady (sendsLegal_driveTxRx on)
  | getTxRxSwitch => exact sendsLegal_requireReady sendsLegal_readTxRx
  | resetDevice => exact sendsLegal_requireReady sendsLegal_pulseReset
  | initializeWithDefaults => exact sendsLegal_requireReady (sendsLegal_writeTable _)

theorem sendsLegal_progScoped (cfg : Config) (i : Instr) : (progScoped cfg i).SendsLegal := by
  refine (sendsLegal_openSession cfg).bind fun o => ?_
  cases o with
  | err e => trivial
  | ok v =>
    refine (sendsLegal_programOf cfg i).bind fun r => sendsLegal_closeSession.bind fun c => ?_
    cases r <;> cases c <;> trivial

theorem sendsLegal_programOfCall (cfg : Config) : ∀ c : Call, (programOfCall cfg c).SendsLegal
  | .op i => sendsLegal_programOf cfg i
  | .scoped i => sendsLegal_progScoped cfg i

/-! ### Runs and steps -/

theorem perform_framesLegal {p : Prim} {s : State} (hp : p.sendsLegal) (hs : s.framesLegal = true) :
    (p.perform s).state.framesLegal = true := by
  rcases perform_grown p s with h | ⟨tx, rfl, h⟩
  · simpa [State.framesLegal, h.frames] using hs
  · have htx : legalFrame tx = true := hp
    simpa [State.framesLegal, h.frames, htx] using hs

theorem Prog.run_framesLegal {q : Prog} {s t : State} (hq : q.SendsLegal) (hs : s.framesLegal = true)
    (ht : (q.run s).state? = some t) : t.framesLegal = true :=
  run_keeps (P := fun u => u.framesLegal = true) (fun _ _ hp hu => perform_framesLegal hp hu) hq hs ht

/-- A step is a run of the call's program, or of its next turn, on the trace so far: it does nothing that the call's
program does not. -/
theorem Stepped.run_acts {s t : State} {n : Nat} {r : Request} {c : Call} (h : Stepped s n r c t) :
    ∃ (q : Prog) (u v : State), (∀ C, (programOfCall s.cfg c).Acts C → q.Acts C) ∧ (q.run u).state? = some v ∧
      u.trace = s.trace ∧ t.trace = v.trace := by
  cases h with
  | wholeDone _ _ hrun => exact ⟨_, _, _, fun _ hq => hq, by rw [hrun]; rfl, by simp, by simp⟩
  | wholeStalled _ hrun => exact ⟨_, _, _, fun _ hq => hq, by rw [hrun]; rfl, by simp, by simp⟩
  | @returned res _ _ =>
    exact ⟨.done res, s.startCall n r, s.startCall n r, fun _ _ => trivial, rfl, by simp, by simp⟩
  | turnDone _ hrun _ =>
    exact ⟨_, _, _, fun _ hq => (hq.resume r.turns).oneTurn, by rw [hrun]; rfl, by simp, by simp⟩
  | turnStalled _ hrun =>
    exact ⟨_, _, _, fun _ hq => (hq.resume r.turns).oneTurn, by rw [hrun]; rfl, by simp, by simp⟩

theorem State.framesLegal_congr {s t : State} (h : t.trace = s.trace) : t.framesLegal = s.framesLegal := by
  rw [framesLegal, framesLegal, frames_congr h]

/-- Settles O54: a step is a run of a call's program or of its next turn, and whatever the replies, the frames a
program comes to send are those its checks have let through. -/
theorem stepKeepsFramesLegal : Obligations.StepKeepsFramesLegal := by
  intro s t hs h
  rcases step_cases h with rfl | ⟨n, r, c, -, -, hstep⟩
  · exact hs
  · obtain ⟨q, u, v, hacts, hrun, hu, hv⟩ := hstep.run_acts
    have hlegal := hacts _ (sendsLegal_programOfCall s.cfg c)
    rw [State.framesLegal_congr hv]
    exact Prog.run_framesLegal hlegal ((State.framesLegal_congr hu).trans hs) hrun

end Sys2Proof.Machine
end

section
/-! The literals of the notation are read back (R105, R106; assumption 25): decimal numbers, bytes, Booleans, signed
integers and dB values. -/

namespace Sys2Proof

/-! ### The digits of a number -/

/-- Every character is a decimal digit. -/
def AllDigits (w : List Char) : Prop := ∀ c ∈ w, c.isDigit = true

theorem isDigit_digitChar {d : Nat} (h : d < 10) : (digitChar d).isDigit = true := by
  have key : ∀ d < 10, (digitChar d).isDigit = true := by decide
  exact key d h

theorem digitValue_digitChar {d : Nat} (h : d < 10) : digitValue 10 (digitChar d) = some d := by
  have key : ∀ d < 10, digitValue 10 (digitChar d) = some d := by decide
  exact key d h

theorem decimalDigits_eq_append (fuel n : Nat) (acc : List Char) :
    decimalDigits fuel n acc = decimalDigits fuel n [] ++ acc := by
  induction fuel generalizing n acc with
  | zero => rfl
  | succ fuel ih =>
    simp only [decimalDigits]
    split
    · rfl
    · rw [ih _ (_ :: acc), ih _ [_]]; simp

/-- More fuel than the number changes nothing. -/
theorem decimalDigits_fuel {fuel fuel' n : Nat} (h : n < fuel) (h' : n < fuel') (acc : List Char) :
    decimalDigits fuel n acc = decimalDigits fuel' n acc := by
  induction fuel generalizing fuel' n acc with
  | zero => omega
  | succ fuel ih =>
    obtain ⟨fuel', rfl⟩ : ∃ k, fuel' = k + 1 := ⟨fuel' - 1, by omega⟩
    simp only [decimalDigits]
    split
    · rfl
    · exact ih (by omega) (by omega) _

theorem decimal_of_lt {n : Nat} (h : n < 10) : decimal n = [digitChar n] := by simp [decimal, decimalDigits, h]

/-- A number of more than one digit ends in its last one. -/
theorem decimal_of_ge {n : Nat} (h : 10 ≤ n) : decimal n = decimal (n / 10) ++ [digitChar (n % 10)] := by
  rw [decimal, decimalDigits, if_neg (by omega), decimalDigits_eq_append,
    decimalDigits_fuel (fuel' := n / 10 + 1) (by omega) (by omega), decimal]

/-- Induction on the digits of a number, the last one taken off at each step. -/
theorem decimal_induction {P : Nat → List Char → Prop} (one : ∀ n < 10, P n [digitChar n])
    (more : ∀ n, 10 ≤ n → P (n / 10) (decimal (n / 10)) → P n (decimal (n / 10) ++ [digitChar (n % 10)]))
    (n : Nat) : P n (decimal n) := by
  induction n using Nat.strongRecOn with
  | ind n ih =>
    by_cases h : n < 10
    · rw [decimal_of_lt h]; exact one n h
    · rw [decimal_of_ge (by omega)]; exact more n (by omega) (ih _ (by omega))

theorem allDigits_decimal (n : Nat) : AllDigits (decimal n) := by
  refine decimal_induction (P := fun _ w => AllDigits w) (fun n h c hc => ?_) (fun n _ ih c hc => ?_) n
  · rw [List.mem_singleton.mp hc]; exact isDigit_digitChar h
  · rcases List.mem_append.mp hc with hc | hc
    · exact ih c hc
    · rw [List.mem_singleton.mp hc]; exact isDigit_digitChar (Nat.mod_lt _ (by decide))

/-- A number's spelling begins with a digit. -/
theorem decimal_eq_cons (n : Nat) : ∃ c cs, decimal n = c :: cs ∧ c.isDigit = true := by
  have hne : decimal n ≠ [] :=
    decimal_induction (P := fun _ w => w ≠ []) (fun _ _ => List.cons_ne_nil _ _) (fun _ _ _ => by simp) n
  obtain ⟨c, cs, h⟩ := List.exists_cons_of_ne_nil hne
  exact ⟨c, cs, h, allDigits_decimal n c (by simp [h])⟩

theorem decimal_ne_nil (n : Nat) : decimal n ≠ [] := by
  obtain ⟨c, cs, h, -⟩ := decimal_eq_cons n
  simp [h]

/-- A number below a power of ten has no more digits than its exponent. -/
theorem length_decimal_le {k n : Nat} (hk : 0 < k) (h : n < 10 ^ k) : (decimal n).length ≤ k := by
  refine decimal_induction (P := fun n w => ∀ k, 0 < k → n < 10 ^ k → w.length ≤ k) (fun _ _ k hk _ => hk)
    (fun n hn ih k hk h => ?_) n k hk h
  obtain ⟨k, rfl⟩ : ∃ j, k = j + 1 := ⟨k - 1, by omega⟩
  have hpos : 0 < k := by
    rcases Nat.eq_zero_or_pos k with rfl | hpos
    · omega
    · exact hpos
  have := ih k hpos (by omega)
  simpa using this

/-! ### The value of digits -/

theorem digitsValue_append (base acc : Nat) (xs ys : List Char) :
    digitsValue base acc (xs ++ ys) = (digitsValue base acc xs).bind fun v => digitsValue base v ys := by
  induction xs generalizing acc with
  | nil => rfl
  | cons c xs ih =>
    simp only [List.cons_append, digitsValue]
    cases digitValue base c with
    | none => rfl
    | some v => exact ih _

theorem digitsValue_decimal (acc n : Nat) :
    digitsValue 10 acc (decimal n) = some (acc * 10 ^ (decimal n).length + n) := by
  refine decimal_induction (P := fun n w => digitsValue 10 acc w = some (acc * 10 ^ w.length + n))
    (fun n h => ?_) (fun n _ ih => ?_) n
  · simp [digitsValue, digitValue_digitChar h]
  · have hdigit := digitValue_digitChar (Nat.mod_lt n (by decide : 0 < 10))
    rw [digitsValue_append, ih]
    simp only [Option.bind_some, digitsValue, hdigit, List.length_append, List.length_singleton, Nat.pow_succ,
      ← Nat.mul_assoc]
    congr 1
    omega

theorem digitsValue_zeros (acc k : Nat) : digitsValue 10 acc (List.replicate k '0') = some (acc * 10 ^ k) := by
  have hzero : digitValue 10 '0' = some 0 := by decide
  induction k generalizing acc with
  | zero => simp [digitsValue]
  | succ k ih =>
    rw [List.replicate_succ, digitsValue, hzero]
    simp only [ih, Nat.pow_succ']
    congr 1
    ring

/-- The places after the point, filled up with zeros in front. -/
theorem digitsValue_padded {k n : Nat} (hk : 0 < k) (h : n < 10 ^ k) (acc : Nat) :
    digitsValue 10 acc (List.replicate (k - (decimal n).length) '0' ++ decimal n) = some (acc * 10 ^ k + n) := by
  have hlen := length_decimal_le hk h
  rw [digitsValue_append, digitsValue_zeros, Option.bind_some, digitsValue_decimal, Nat.mul_assoc, ← Nat.pow_add,
    Nat.sub_add_cancel hlen]

/-! ### Integers, bytes and Booleans -/

theorem parseNat_digits {c : Char} {cs : List Char} (h : AllDigits (c :: cs)) :
    parseNat (c :: cs) = digitsValue 10 0 (c :: cs) := by
  unfold parseNat
  split
  · next heq =>
    cases heq
    exact absurd (h 'x' (by simp)) (by decide)
  · next heq => rw [heq]
  · next heq => cases heq

theorem parseNat_decimal (n : Nat) : parseNat (decimal n) = some n := by
  obtain ⟨c, cs, h, -⟩ := decimal_eq_cons n
  rw [h, parseNat_digits (h ▸ allDigits_decimal n), ← h, digitsValue_decimal]
  simp

/-- A digit is no sign, point or separator. -/
theorem ne_of_isDigit {c d : Char} (hc : c.isDigit = true) (hd : d.isDigit = false) : c ≠ d := by
  rintro rfl
  simp [hc] at hd

theorem parseHz_decimal (n : Nat) : parseHz (decimal n) = some n := by
  have hfilter : (decimal n).filter (· != '_') = decimal n :=
    List.filter_eq_self.mpr fun c hc => bne_iff_ne.mpr (ne_of_isDigit (allDigits_decimal n c hc) (by decide))
  obtain ⟨c, cs, h, hc⟩ := decimal_eq_cons n
  rw [parseHz, hfilter, parseNat_decimal, h, List.head?_cons,
    if_neg fun e => ne_of_isDigit hc (by decide) (Option.some.inj e)]

theorem parseInt_decimal (n : Nat) : parseInt (decimal n) = some (n : Int) := by
  obtain ⟨c, cs, h, hc⟩ := decimal_eq_cons n
  have hn := parseNat_decimal n
  rw [h] at hn ⊢
  unfold parseInt
  split
  · next heq => exact absurd (List.cons.inj heq).1 (ne_of_isDigit hc (by decide))
  · rw [hn]; rfl

theorem parseInt_intText (n : Int) : parseInt (intText n) = some n := by
  unfold intText
  split
  · next h =>
    have hn : -|n| = n := by rw [abs_of_neg h, neg_neg]
    simp [parseInt, parseNat_decimal, hn]
  · next h => rw [parseInt_decimal]; congr 1; omega

theorem parseByte_byteText (b : Byte) : parseByte (byteText b) = some b := by
  have hb : b.toNat < 256 := b.isLt
  simp [parseByte, byteText, parseNat_decimal, hb]

theorem parseBytes_byteText (bs : List Byte) : parseBytes (bs.map byteText) = some bs := by
  induction bs with
  | nil => rfl
  | cons b bs ih => simp [parseBytes, parseByte_byteText, ih]

theorem parseBool_boolText (b : Bool) : parseBool (boolText b) = some b := by cases b <;> decide

/-- No name of the notation that begins with a letter is a number's spelling. -/
theorem ofList_decimal_ne {name : String} (h : ∀ c ∈ name.toList.head?, c.isDigit = false) (n : Nat) :
    String.ofList (decimal n) ≠ name := by
  rintro rfl
  obtain ⟨c, cs, hn, hc⟩ := decimal_eq_cons n
  have := h c (by simp [hn])
  simp [hc] at this

/-- A number is no register's name (R107). -/
theorem parseAddr_decimal (n : Nat) : parseAddr (decimal n) = some n := by
  have hletters : ∀ row ∈ Reg.map, ∀ c ∈ row.2.toList.head?, c.isDigit = false := by simp [Reg.map]
  have hnone : Reg.ofName (String.ofList (decimal n)) = none := by
    rw [Reg.ofName, Option.map_eq_none_iff, List.find?_eq_none]
    intro row hrow
    simpa using (ofList_decimal_ne (hletters row hrow) n).symm
  rw [parseAddr, hnone, parseNat_decimal]

/-! ### dB values -/

theorem span_point {whole : List Char} (h : AllDigits whole) (frac : List Char) :
    (whole ++ '.' :: frac).span (· != '.') = (whole, '.' :: frac) := by
  have hpoint : ∀ c ∈ whole, (c != '.') = true := fun c hc => bne_iff_ne.mpr (ne_of_isDigit (h c hc) (by decide))
  rw [List.span_eq_takeWhile_dropWhile, List.takeWhile_append_of_pos hpoint, List.dropWhile_append_of_pos hpoint]
  simp

theorem span_whole {whole : List Char} (h : AllDigits whole) : whole.span (· != '.') = (whole, []) := by
  have hpoint : ∀ c ∈ whole, (c != '.') = true := fun c hc => bne_iff_ne.mpr (ne_of_isDigit (h c hc) (by decide))
  rw [List.span_eq_takeWhile_dropWhile, List.takeWhile_eq_self_iff.mpr hpoint, List.dropWhile_eq_nil_iff.mpr hpoint]

/-- A decimal with some places is read as its number of tenths to their power. -/
theorem parseUnsignedDecimal_placesText (k n : Nat) :
    parseUnsignedDecimal (placesText k n) = some (mkRat n (10 ^ k)) := by
  unfold placesText
  split
  · next hk =>
    subst hk
    rw [parseUnsignedDecimal, span_whole (allDigits_decimal n)]
    simp [decimal_ne_nil, digitsValue_decimal, Rat.mkRat_one]
  · next hk =>
    have hmod : n % 10 ^ k < 10 ^ k := Nat.mod_lt _ (by positivity)
    have hlen : (List.replicate (k - (decimal (n % 10 ^ k)).length) '0' ++ decimal (n % 10 ^ k)).length = k := by
      have := length_decimal_le (Nat.pos_of_ne_zero hk) hmod
      simp; omega
    have hvalue : digitsValue 10 0 (decimal (n / 10 ^ k) ++
        (List.replicate (k - (decimal (n % 10 ^ k)).length) '0' ++ decimal (n % 10 ^ k))) = some n := by
      rw [digitsValue_append, digitsValue_decimal, Option.bind_some, digitsValue_padded (Nat.pos_of_ne_zero hk) hmod,
        Nat.zero_mul, Nat.zero_add, Nat.div_add_mod']
    rw [parseUnsignedDecimal, span_point (allDigits_decimal _)]
    simp only [decimal_ne_nil, List.append_eq_nil_iff, and_false, or_self, if_false, hvalue, hlen]
    rfl

/-- A decimal's spelling begins with a digit. -/
theorem placesText_eq_cons (k n : Nat) : ∃ c cs, placesText k n = c :: cs ∧ c.isDigit = true := by
  unfold placesText
  split
  · exact decimal_eq_cons n
  · obtain ⟨c, cs, h, hc⟩ := decimal_eq_cons (n / 10 ^ k)
    exact ⟨c, _, by rw [h]; rfl, hc⟩

theorem parseDb_placesText (k n : Nat) : parseDb (placesText k n) = some (mkRat n (10 ^ k)) := by
  obtain ⟨c, cs, h, hc⟩ := placesText_eq_cons k n
  have hn := parseUnsignedDecimal_placesText k n
  rw [h] at hn ⊢
  unfold parseDb
  split
  · next heq => exact absurd (List.cons.inj heq).1 (ne_of_isDigit hc (by decide))
  · next heq => exact absurd (List.cons.inj heq).1 (ne_of_isDigit hc (by decide))
  · exact hn

/-- A finite decimal is a whole number of its last place. -/
theorem mkRat_places {g : Rat} {k : Nat} (h : decimalPlaces g = some k) :
    mkRat (g.num.natAbs * 10 ^ k / g.den : Nat) (10 ^ k) = |g| := by
  have hdvd : g.den ∣ 10 ^ k := Nat.dvd_of_mod_eq_zero (by simpa using List.find?_some h)
  obtain ⟨m, hm⟩ := hdvd
  have hm0 : (m : Rat) ≠ 0 := by
    rintro h0
    have : m = 0 := by exact_mod_cast h0
    simp [this] at hm
  have hquot : g.num.natAbs * 10 ^ k / g.den = g.num.natAbs * m := by
    rw [hm, ← Nat.mul_assoc, Nat.mul_right_comm, Nat.mul_div_cancel _ g.den_pos]
  have habs : |g| = (g.num.natAbs : Rat) / g.den := by
    conv_lhs => rw [← Rat.num_div_den g]
    rw [abs_div, Nat.abs_cast, ← Int.cast_abs, Int.abs_eq_natAbs, Int.cast_natCast]
  rw [Rat.mkRat_eq_div, hquot, habs, hm]
  rw [Int.cast_natCast, Nat.cast_mul, Nat.cast_mul, mul_div_mul_right _ _ hm0]

/-- A dB value that is a finite decimal is read back from its literal (R105). -/
theorem parseDb_dbText {g : Rat} (h : (decimalPlaces g).isSome = true) : parseDb (dbText g) = some g := by
  obtain ⟨k, hk⟩ := Option.isSome_iff_exists.mp h
  have habs := mkRat_places hk
  simp only [dbText, hk, Option.getD_some]
  split
  · next hneg =>
    have hg : |g| = -g := abs_of_neg (Rat.num_neg.mp hneg)
    simp only [parseDb, parseUnsignedDecimal_placesText, Option.map_some, habs, hg, neg_neg]
  · next hpos => rw [parseDb_placesText, habs, abs_of_nonneg (Rat.num_nonneg.mp (not_lt.mp hpos))]

end Sys2Proof
end

section
/-! A call of the notation is read back from its text (R105 to R107; assumption 25): the tokens of the text, the
operands of the tokens, and the operation of the operands. -/

namespace Sys2Proof

/-! ### Tokens -/

/-- A text at which a pending word ends. -/
def BreaksWord (text : List Char) : Prop := ∀ c ∈ text.head?, isWordChar c = false

/-- The text is read as the tokens, before any text at which a word ends. -/
def Spells (text : List Char) (ts : List Token) : Prop :=
  ∀ rest, BreaksWord rest → lex [] none (text ++ rest) = (lex [] none rest).map (ts ++ ·)

theorem Spells.lex_eq {text : List Char} {ts : List Token} (h : Spells text ts) : lex [] none text = some ts := by
  simpa [lex, endWord] using h [] (by simp [BreaksWord])

@[simp] theorem endWord_nil : endWord [] = id := rfl

theorem endWord_of_ne_nil {w : List Char} (h : w ≠ []) : endWord w = (.word w.reverse :: ·) := by
  funext ts
  rw [endWord, if_neg h]

theorem isWordChar_of_isDigit {c : Char} (h : c.isDigit = true) : isWordChar c = true := by
  simp [isWordChar, Char.isAlphanum, h]

theorem isWordChar_of_punctuation {c : Char} {t : Token} (h : punctuation c = some t) : isWordChar c = false := by
  unfold punctuation at h
  split_ifs at h <;> subst c <;> decide

theorem breaksWord_cons {c : Char} {t : Token} (h : punctuation c = some t) (text : List Char) :
    BreaksWord (c :: text) := by
  simpa [BreaksWord] using isWordChar_of_punctuation h

/-- The characters of a word are gathered. -/
theorem lex_word {w : List Char} (hw : ∀ c ∈ w, isWordChar c = true) (pending rest : List Char) :
    lex pending none (w ++ rest) = lex (w.reverse ++ pending) none rest := by
  induction w generalizing pending with
  | nil => rfl
  | cons c w ih =>
    have hc := hw c (by simp)
    have hsemi : c ≠ ';' := by rintro rfl; exact absurd hc (by decide)
    rw [List.cons_append, lex, if_neg hsemi, if_pos hc, ih (fun d hd => hw d (by simp [hd]))]
    simp

/-- A pending word ends where the text breaks it. -/
theorem lex_pending {rest : List Char} (h : BreaksWord rest) (pending : List Char) :
    lex pending none rest = (lex [] none rest).map (endWord pending) := by
  cases rest with
  | nil => rfl
  | cons c cs =>
    have hc : isWordChar c = false := h c rfl
    simp only [lex, hc, Bool.false_eq_true, if_false, endWord_nil]
    split_ifs
    · rfl
    · simp
    · simp
    · cases punctuation c <;> simp [Function.comp_def]

theorem spells_word {w : List Char} (hne : w ≠ []) (hw : ∀ c ∈ w, isWordChar c = true) :
    Spells w [.word w] := by
  intro rest hrest
  rw [lex_word hw, lex_pending hrest, endWord_of_ne_nil (by simpa using hne)]
  simp

theorem lex_punctuation {c : Char} {t : Token} (h : punctuation c = some t) (rest : List Char) :
    lex [] none (c :: rest) = (lex [] none rest).map (t :: ·) := by
  have hword := isWordChar_of_punctuation h
  have hne : ∀ d, punctuation d = none → c ≠ d := by rintro d hd rfl; rw [hd] at h; cases h
  simp [lex, hword, h, hne ';' rfl, hne '"' rfl, hne ' ' rfl, hne '\t' rfl]

theorem Spells.punctuation_cons {c : Char} {t : Token} {text : List Char} {ts : List Token} (h : Spells text ts)
    (hc : punctuation c = some t) : Spells (c :: text) (t :: ts) := by
  intro rest hrest
  rw [List.cons_append, lex_punctuation hc, h rest hrest, Option.map_map]
  rfl

theorem spells_nil : Spells [] [] := fun rest _ => by simp

theorem Spells.append {a b : List Char} {ts us : List Token} (ha : Spells a ts) (hb : Spells b us)
    (hbreak : ∀ rest, BreaksWord rest → BreaksWord (b ++ rest)) : Spells (a ++ b) (ts ++ us) := by
  intro rest hrest
  rw [List.append_assoc, ha _ (hbreak rest hrest), hb rest hrest, Option.map_map]
  simp [Function.comp_def]

/-- Texts with punctuation between them are read as their tokens with its token between them. -/
theorem Spells.append_punctuation {a b : List Char} {ts us : List Token} {c : Char} {t : Token} (ha : Spells a ts)
    (hb : Spells b us) (hc : punctuation c = some t) : Spells (a ++ c :: b) (ts ++ t :: us) :=
  ha.append (hb.punctuation_cons hc) fun _ _ => breaksWord_cons hc _

/-- A string runs to its closing quote. -/
theorem lex_string {s : List Char} (hs : ∀ c ∈ s, c ≠ '"') (gathered rest : List Char) :
    lex [] (some gathered) (s ++ '"' :: rest) = (lex [] none rest).map (.str (gathered.reverse ++ s) :: ·) := by
  induction s generalizing gathered with
  | nil => simp [lex]
  | cons c s ih =>
    rw [List.cons_append, lex, if_neg (hs c (by simp)), ih (fun d hd => hs d (by simp [hd]))]
    simp

theorem spells_string {s : List Char} (hs : ∀ c ∈ s, c ≠ '"') : Spells ('"' :: s ++ ['"']) [.str s] := by
  intro rest _
  have hquote : isWordChar '"' = false := by decide
  simp [lex, hquote, lex_string hs]

/-! ### The operands of an operation -/

/-- A word of the notation. -/
def IsWord (w : List Char) : Prop := w ≠ [] ∧ ∀ c ∈ w, isWordChar c = true

/-- An operand's text. -/
def Arg.text : Arg → List Char
  | .word w => w
  | .str s => '"' :: s ++ ['"']
  | .list ws => '[' :: joinTexts ws ++ [']']

/-- The tokens of some operands, with commas between them. -/
def joinTokens : List (List Token) → List Token
  | [] => []
  | [ts] => ts
  | ts :: tss => ts ++ .comma :: joinTokens tss

/-- An operand's tokens. -/
def Arg.tokens : Arg → List Token
  | .word w => [.word w]
  | .str s => [.str s]
  | .list ws => .lbrack :: joinTokens (ws.map fun w => [.word w]) ++ [.rbrack]

/-- An operand whose words are words and whose strings have no quote in them. -/
def Arg.Plain : Arg → Prop
  | .word w => IsWord w
  | .str s => ∀ c ∈ s, c ≠ '"'
  | .list ws => ∀ w ∈ ws, IsWord w

/-- The operands of an operation, as the notation writes them. -/
def Instr.args : Instr → List Arg
  | .writeRegister a v => [.word (decimal a), .word (byteText v)]
  | .readRegister a => [.word (decimal a)]
  | .burstWrite s vs => [.word (decimal s), .list (vs.map byteText)]
  | .burstRead s n => [.word (decimal s), .word (intText n)]
  | .gpioOpen c r t => [.str c, .word (decimal r), .word (decimal t)]
  | .setResetPin b | .setTxRxPin b | .enableRx b | .enableTx b | .enablePA b | .setTxRxSwitch b =>
    [.word (boolText b)]
  | .setRxFrequency f | .setTxFrequency f => [.word (decimal f)]
  | .setLnaGain g | .setPgaGain g | .setDacGain g | .setMixerGain g => [.word (dbText g)]
  | .setMode m => [.word (byteText m)]
  | .setModeSleep => [.word "sleep".toList]
  | .setModeStandby => [.word "standby".toList]
  | .setModeRx => [.word "rx".toList]
  | .setModeTx => [.word "tx".toList]
  | .setModeTxFull => [.word "tx_full".toList]
  | .setModeFullDuplex => [.word "full_duplex".toList]
  | _ => []

theorem operandTexts_eq (i : Instr) : i.operandTexts = i.args.map Arg.text := by cases i <;> rfl

theorem IsWord.cons {c : Char} {w : List Char} (hc : isWordChar c = true) (hw : IsWord w) : IsWord (c :: w) :=
  ⟨List.cons_ne_nil _ _, by simpa [hc] using hw.2⟩

theorem isWord_of_all {w : List Char} (h : (!w.isEmpty && w.all isWordChar) = true) : IsWord w := by
  simp only [Bool.and_eq_true, Bool.not_eq_true', List.isEmpty_eq_false_iff, List.all_eq_true] at h
  exact h

theorem isWord_decimal (n : Nat) : IsWord (decimal n) :=
  ⟨decimal_ne_nil n, fun c hc => isWordChar_of_isDigit (allDigits_decimal n c hc)⟩

theorem isWord_boolText (b : Bool) : IsWord (boolText b) := by
  cases b <;> exact isWord_of_all (by decide +kernel)

theorem isWord_intText (n : Int) : IsWord (intText n) := by
  unfold intText
  split
  · exact (isWord_decimal _).cons (by decide)
  · exact isWord_decimal _

theorem isWord_placesText (k n : Nat) : IsWord (placesText k n) := by
  unfold placesText
  split
  · exact isWord_decimal n
  · refine ⟨by simp, fun c hc => ?_⟩
    simp only [List.mem_append, List.mem_cons, List.mem_replicate] at hc
    rcases hc with hc | rfl | ⟨-, rfl⟩ | hc
    · exact (isWord_decimal _).2 c hc
    · decide
    · decide
    · exact (isWord_decimal _).2 c hc

theorem isWord_dbText (g : Rat) : IsWord (dbText g) := by
  unfold dbText
  dsimp only
  split
  · exact (isWord_placesText _ _).cons (by decide)
  · exact isWord_placesText _ _

theorem isWord_opName (i : Instr) : IsWord i.opName.toList := by
  refine isWord_of_all ?_
  cases i <;> simp only [Instr.opName] <;> decide +kernel

/-- The notation can write the operands of a writable operation. -/
theorem plain_args {i : Instr} (h : i.writable = true) : ∀ a ∈ i.args, a.Plain := by
  cases i with
  | gpioOpen chip resetPin txRxPin =>
    have hchip : ∀ c ∈ chip, c ≠ '"' := fun c hc => by
      have := List.all_eq_true.mp h c hc
      simp only [Bool.and_eq_true, bne_iff_ne] at this
      exact this.1
    simpa [Instr.args, Arg.Plain, isWord_decimal] using hchip
  | burstWrite start values => simp [Instr.args, Arg.Plain, isWord_decimal, byteText]
  | setModeSleep | setModeStandby | setModeRx | setModeTx | setModeTxFull | setModeFullDuplex =>
    rintro a ha
    rw [List.mem_singleton.mp ha]
    exact isWord_of_all (by decide +kernel)
  | _ => simp [Instr.args, Arg.Plain, isWord_decimal, isWord_boolText, isWord_intText, isWord_dbText, byteText]

/-! ### The tokens of an operation -/

/-- An operation's tokens, `op(arg,arg)`. -/
def Instr.tokens (i : Instr) : List Token :=
  .word i.opName.toList :: .lpar :: (joinTokens (i.args.map Arg.tokens) ++ [Token.rpar])

theorem spells_joinTexts {α : Type} {text : α → List Char} {tokens : α → List Token} {l : List α}
    (h : ∀ a ∈ l, Spells (text a) (tokens a)) : Spells (joinTexts (l.map text)) (joinTokens (l.map tokens)) := by
  induction l with
  | nil => exact spells_nil
  | cons a l ih =>
    have ha := h a (by simp)
    have hl := ih fun b hb => h b (by simp [hb])
    cases l with
    | nil => exact ha
    | cons b l => exact ha.append_punctuation hl rfl

theorem spells_arg {a : Arg} (h : a.Plain) : Spells a.text a.tokens := by
  cases a with
  | word w => exact spells_word h.1 h.2
  | str s => exact spells_string h
  | list ws =>
    have hws : Spells (joinTexts ws) (joinTokens (ws.map fun w => [.word w])) := by
      simpa using spells_joinTexts (text := id) fun w hw => spells_word (h w hw).1 (h w hw).2
    exact (hws.append_punctuation spells_nil rfl).punctuation_cons rfl

theorem spells_encodeText {i : Instr} (h : i.writable = true) : Spells (encodeText i) i.tokens := by
  have hargs : Spells (joinTexts i.operandTexts) (joinTokens (i.args.map Arg.tokens)) :=
    operandTexts_eq i ▸ spells_joinTexts fun a ha => spells_arg (plain_args h a ha)
  obtain ⟨hne, hchars⟩ := isWord_opName i
  simpa [encodeText, Instr.tokens] using
    (spells_word hne hchars).append_punctuation (hargs.append_punctuation spells_nil (c := ')') rfl) (c := '(') rfl

/-! ### Operands of tokens -/

theorem joinTokens_map_cons_cons {α : Type} (tokens : α → List Token) (a b : α) (l : List α) :
    joinTokens ((a :: b :: l).map tokens) = tokens a ++ .comma :: joinTokens ((b :: l).map tokens) := rfl

theorem parseList_joinTokens (ws : List (List Char)) (rest : List Token) :
    parseList (joinTokens (ws.map fun w => [.word w]) ++ .rbrack :: rest) = some (ws, rest) := by
  induction ws with
  | nil => rfl
  | cons w ws ih =>
    cases ws with
    | nil => rfl
    | cons w' ws =>
      obtain ⟨more, hmore⟩ : ∃ more, joinTokens ((w' :: ws).map fun w => [Token.word w]) = .word w' :: more := by
        cases ws <;> exact ⟨_, rfl⟩
      rw [joinTokens_map_cons_cons, hmore]
      rw [hmore] at ih
      simp only [List.cons_append, List.nil_append] at ih ⊢
      rw [parseList, ih]

theorem parseArg_tokens (a : Arg) (rest : List Token) : parseArg (a.tokens ++ rest) = some (a, rest) := by
  cases a with
  | word w => rfl
  | str s => rfl
  | list ws => simp [Arg.tokens, parseArg, parseList_joinTokens]

theorem parseArgs_joinTokens {args : List Arg} (hne : args ≠ []) {fuel : Nat} (hfuel : args.length ≤ fuel) :
    parseArgs fuel (joinTokens (args.map Arg.tokens) ++ [Token.rpar]) = some args := by
  induction args generalizing fuel with
  | nil => exact absurd rfl hne
  | cons a args ih =>
    obtain ⟨fuel, rfl⟩ : ∃ k, fuel = k + 1 := ⟨fuel - 1, by simp at hfuel; omega⟩
    cases args with
    | nil => simp [joinTokens, parseArgs, parseArg_tokens]
    | cons b args =>
      have hrest := ih (List.cons_ne_nil _ _) (fuel := fuel) (by simpa using hfuel)
      rw [joinTokens_map_cons_cons, List.append_assoc, parseArgs, parseArg_tokens]
      simp only [List.cons_append, hrest, Option.map_some]

theorem length_le_joinTokens (args : List Arg) : args.length ≤ (joinTokens (args.map Arg.tokens)).length := by
  have hone : ∀ a : Arg, 1 ≤ a.tokens.length := fun a => by cases a <;> simp [Arg.tokens]
  induction args with
  | nil => exact le_rfl
  | cons a args ih =>
    have ha := hone a
    cases args with
    | nil => exact ha
    | cons b args =>
      rw [joinTokens_map_cons_cons]
      simp only [List.length_append, List.length_cons] at ih ⊢
      omega

/-- The tokens of an operation are its name and its operands. -/
theorem decodeTokens_tokens (i : Instr) : decodeTokens i.tokens = buildInstr i.opName i.args := by
  have hlen := length_le_joinTokens i.args
  rw [Instr.tokens, decodeTokens]
  by_cases hargs : i.args = []
  · simp [hargs, joinTokens]
  · have hmore : joinTokens (i.args.map Arg.tokens) ++ [Token.rpar] ≠ [.rpar] := fun e => by
      have : (joinTokens (i.args.map Arg.tokens)).length = 0 := by simpa using congrArg List.length e
      exact hargs (List.length_eq_zero_iff.mp (by omega))
    rw [if_neg hmore, parseArgs_joinTokens hargs (by simp; omega)]
    simp

/-! ### Operations of operands -/

/-- A MODE byte is no named mode's name (R107). -/
theorem buildInstr_setMode (m : Byte) : buildInstr "setMode" [.word (byteText m)] = .ok (.setMode m) := by
  have hname : ∀ name : String, (∀ c ∈ name.toList.head?, c.isDigit = false) → String.ofList (byteText m) ≠ name :=
    fun _ h => ofList_decimal_ne h _
  simp only [buildInstr, parseByte_byteText, Option.map_some]
  split
  case h_7 => rfl
  all_goals next e => exact absurd e (hname _ (by simp))

theorem buildInstr_args {i : Instr} (h : i.writable = true) : buildInstr i.opName i.args = .ok i := by
  cases i with
  | writeRegister a v => simp [Instr.opName, Instr.args, buildInstr, parseAddr_decimal, parseByte_byteText]
  | readRegister a => simp [Instr.opName, Instr.args, buildInstr, parseAddr_decimal]
  | burstWrite s vs => simp [Instr.opName, Instr.args, buildInstr, parseAddr_decimal, parseBytes_byteText]
  | burstRead s n => simp [Instr.opName, Instr.args, buildInstr, parseAddr_decimal, parseInt_intText]
  | gpioOpen c r t => simp [Instr.opName, Instr.args, buildInstr, parseNat_decimal]
  | setResetPin b | setTxRxPin b | enableRx b | enableTx b | enablePA b | setTxRxSwitch b =>
    simp [Instr.opName, Instr.args, buildInstr, parseBool_boolText]
  | setRxFrequency f | setTxFrequency f => simp [Instr.opName, Instr.args, buildInstr, parseHz_decimal]
  | setLnaGain g | setPgaGain g | setDacGain g | setMixerGain g =>
    simp [Instr.opName, Instr.args, buildInstr, parseDb_dbText h]
  | setMode m => exact buildInstr_setMode m
  | _ => rfl

/-! ### Calls -/

theorem decodeCall_encodeText {i : Instr} (h : i.writable = true) : decodeCall (encodeText i) = .ok (.op i) := by
  have hscoped : i.opName.toList ≠ "scoped".toList := by cases i <;> simp [Instr.opName]
  have hdecode := (decodeTokens_tokens i).trans (buildInstr_args h)
  rw [decodeCall, (spells_encodeText h).lex_eq]
  simp only [Instr.tokens] at hdecode ⊢
  rw [if_neg hscoped, hdecode]
  rfl

theorem encodeCall_scoped (i : Instr) : encodeCall (.scoped i) = "scoped".toList ++ '(' :: (encodeText i ++ [')']) := by
  have hname : "scoped(".toList = "scoped".toList ++ ['('] := by simp
  have hcall : encodeCall (.scoped i) = "scoped(".toList ++ encodeText i ++ [')'] := rfl
  simp only [hcall, hname, List.append_assoc, List.cons_append, List.nil_append]

theorem decodeCall_encodeCall_scoped {i : Instr} (h : i.writable = true) :
    decodeCall (encodeCall (.scoped i)) = .ok (.scoped i) := by
  have hdecode := (decodeTokens_tokens i).trans (buildInstr_args h)
  have hspells : Spells (encodeCall (.scoped i)) (.word "scoped".toList :: .lpar :: (i.tokens ++ [Token.rpar])) := by
    have hname : Spells "scoped".toList [.word "scoped".toList] := spells_word (by simp) (by simp [isWordChar])
    rw [encodeCall_scoped]
    exact hname.append_punctuation ((spells_encodeText h).append_punctuation spells_nil rfl) rfl
  rw [decodeCall, hspells.lex_eq]
  simp [hdecode]
  rfl

end Sys2Proof

namespace Sys2Proof.Machine

/-- Settles O5: the text is read as the tokens it spells, the tokens as the operands they write, and each operand as
the value it stands for. -/
theorem textDecodesBack : Obligations.TextDecodesBack := by
  rintro (i | i) h
  · exact decodeCall_encodeText h
  · exact decodeCall_encodeCall_scoped h

end Sys2Proof.Machine
end

section
/-! The transfers of an accepted operation, one after another: what they leave alone, what a read among them gives, and
that the runs of the register steps are such (R108, R113, R118 to R121). -/

namespace Sys2Proof.Machine

/-! ### Transfers one after another -/

namespace State

/-- The state after some transfers that went through. -/
def sent (s : State) (fs : List Frame) : State := fs.foldl State.transferred s

@[simp] theorem sent_nil (s : State) : s.sent [] = s := rfl

@[simp] theorem sent_cons (s : State) (f : Frame) (fs : List Frame) :
    s.sent (f :: fs) = (s.transferred f).sent fs := rfl

section
variable (s : State) (fs : List Frame)

@[simp] theorem sent_cfg : (s.sent fs).cfg = s.cfg := by
  induction fs generalizing s with
  | nil => rfl
  | cons f fs ih => simp [ih]

@[simp] theorem sent_ctl : (s.sent fs).ctl = s.ctl := by
  induction fs generalizing s with
  | nil => rfl
  | cons f fs ih => simp [ih]

@[simp] theorem sent_alone : (s.sent fs).alone = s.alone := by
  induction fs generalizing s with
  | nil => rfl
  | cons f fs ih => simp [ih]

@[simp] theorem sent_frames : (s.sent fs).frames = s.frames ++ fs := by
  induction fs generalizing s with
  | nil => simp
  | cons f fs ih => simp [ih]

@[simp] theorem sent_sideEvents : (s.sent fs).sideEvents = s.sideEvents := by
  induction fs generalizing s with
  | nil => rfl
  | cons f fs ih => simp [ih]

end

end State

theorem SameLines.refl (s : State) : SameLines s s := ⟨rfl, rfl, rfl, rfl, rfl⟩

theorem SameLines.trans {s t u : State} (h : SameLines s t) (h' : SameLines t u) : SameLines s u :=
  ⟨h'.held.trans h.held, h'.resetPin.trans h.resetPin, h'.txrxPin.trans h.txrxPin, h'.rose.trans h.rose,
   h'.fell.trans h.fell⟩

theorem SameLines.of_device {s t : State} (h : t.device = s.device) : SameLines s t := by
  constructor <;> rw [h]

/-- A transfer moves no line. -/
theorem sameLines_transferred (s : State) (tx : Frame) : SameLines s (s.transferred tx) := by constructor <;> simp

theorem sameLines_sent (s : State) (fs : List Frame) : SameLines s (s.sent fs) := by
  induction fs generalizing s with
  | nil => exact .refl s
  | cons f fs ih => exact (sameLines_transferred s f).trans (ih _)

/-- A transfer that went through is followed by its gap (R113, R123). -/
theorem busRested_transferred (s : State) (tx : Frame) : BusRested (s.transferred tx) :=
  ⟨s.nextEnd tx, by simp, by simp⟩

theorem busRested_sent (s : State) {fs : List Frame} (h : fs ≠ []) : BusRested (s.sent fs) := by
  induction fs generalizing s with
  | nil => exact absurd rfl h
  | cons f fs ih =>
    cases fs with
    | nil => exact busRested_transferred s f
    | cons g fs => exact ih (s.transferred f) (List.cons_ne_nil g fs)

/-! ### What a read gives -/

/-- Under `DEVICE_COHERENT` a known byte takes the place of the drawn one (R40). -/
theorem getD_overlay (m : List Host.Cell) {xs : List Byte} {j : Nat} (h : j < xs.length) (a : Nat) :
    (Device.overlay m a xs).getD j 0 = (Memory.read (a + j) m).getD (xs.getD j 0) := by
  induction xs generalizing a j with
  | nil => simp at h
  | cons x xs ih =>
    cases j with
    | zero => rfl
    | succ j =>
      have hj : j < xs.length := by simpa using h
      simpa [Device.overlay, Nat.add_right_comm, Nat.add_assoc, Nat.add_comm 1 j] using ih hj (a + 1)

/-- The response to a read frame (R40, R248). -/
theorem respond_read {b : Byte} (hb : isWrite b = false) (d : Device) (coherent : Bool) (t : Nat) (ds : List Byte)
    (x : Byte) (xs : List Byte) : d.respond coherent t (b :: ds) (x :: xs) =
      if coherent && !d.hazard t then x :: Device.overlay d.regs (frameAddr b) xs else x :: xs := by
  simp only [Device.respond, hb, Bool.false_eq_true, if_false]

section
variable {s : State} {b : Byte} {ds : List Byte}

/-- The data bytes of a read's response are those the call reads (R40, R119, R121, R248). -/
theorem getD_response (hb : isWrite b = false) (hlen : s.answer.rx.length = ds.length + 1) {j : Nat}
    (hj : j < ds.length) : (s.response (b :: ds)).getD (j + 1) 0 = s.byteRead 0 (j + 1) (frameAddr b + j) := by
  obtain ⟨x, xs, hrx⟩ := List.exists_cons_of_length_eq_add_one hlen
  have hxs : xs.length = ds.length := by simpa [hrx] using hlen
  have hover := getD_overlay s.device.regs (hxs ▸ hj) (frameAddr b)
  rw [State.response, State.byteRead, State.drawnByte, State.answerAt_zero, State.hazardNext, hrx, respond_read hb]
  split
  · exact hover
  · rfl

/-- The bytes of a burst are its response without the first (R121). -/
theorem tail_response (hb : isWrite b = false) (hlen : s.answer.rx.length = ds.length + 1) :
    (s.response (b :: ds)).tail = (List.range ds.length).map fun j => s.byteRead 0 (j + 1) (frameAddr b + j) := by
  refine List.ext_getElem (by simp [hlen]) fun j h h' => ?_
  have hj : j < ds.length := by simpa using h'
  have hbyte := getD_response hb hlen hj
  have hlt : j + 1 < (s.response (b :: ds)).length := by simpa [hlen] using hj
  rw [List.getD_eq_getElem _ _ hlt] at hbyte
  simpa using hbyte

/-- A read leaves what later reads of the call give (R40, R248): the registers are as they were, or the call's first
transfer was a hazard and none is known. -/
theorem byteRead_transferred (hb : isWrite b = false) (k j a : Nat) :
    (s.transferred (b :: ds)).byteRead k j a = s.byteRead (k + 1) j a := by
  have hdrawn : (s.transferred (b :: ds)).drawnByte k j = s.drawnByte (k + 1) j := by simp [State.drawnByte]
  cases hz : s.device.hazard s.nextStart with
  | true =>
    have hnone : Memory.read a (s.transferred (b :: ds)).device.regs = none := by
      rw [State.transferred_device, Device.accept_hazard _ _ hz]; rfl
    rw [State.byteRead, State.byteRead, hnone, hdrawn]
    simp [State.hazardNext, hz]
  | false =>
    have hdevice : (s.transferred (b :: ds)).device = s.device := by simp [Device.accept, hz, hb]
    have hz' := s.transferred_hazard (b :: ds) hz
    rw [State.byteRead, State.byteRead, State.hazardNext, State.hazardNext, hz, hz', hdrawn, hdevice,
      State.transferred_cfg]

end

/-- The byte of a register read (R119). -/
theorem getD_response_readFrame {s : State} {a : Nat} (ha : a ≤ 0x13) (hlen : s.answer.rx.length = 2) :
    (s.response (readFrame a)).getD 1 0 = s.byteRead 0 1 a := by
  obtain ⟨hread, haddr⟩ := addressByte_parts false ha
  simpa [readFrame, haddr] using getD_response hread (ds := [0]) hlen (j := 0) (by simp)

theorem byteRead_transferred_readFrame {a : Nat} (ha : a ≤ 0x13) (s : State) (k j a' : Nat) :
    (s.transferred (readFrame a)).byteRead k j a' = s.byteRead (k + 1) j a' :=
  byteRead_transferred (addressByte_parts false ha).1 k j a'

/-! ### The bytes a pattern reads -/

section
variable (s : State)

theorem bytesRead_readFrame {a : Nat} (ha : a ≤ 0x13) : s.bytesRead [readFrame a] = [s.byteRead 0 1 a] := by
  obtain ⟨hread, haddr⟩ := addressByte_parts false ha
  simp [State.bytesRead, readFrame, hread, haddr]

theorem bytesRead_burstReadFrame {a n : Nat} (ha : a ≤ 0x13) :
    s.bytesRead [burstReadFrame a n] = (List.range n).map fun j => s.byteRead 0 (j + 1) (a + j) := by
  obtain ⟨hread, haddr⟩ := addressByte_parts false ha
  simp [State.bytesRead, burstReadFrame, hread, haddr]

theorem bytesRead_rmwFrames (reg : Reg) (r' : Byte) : s.bytesRead (rmwFrames reg r') = [s.byteRead 0 1 reg.addr] := by
  have ha : reg.addr ≤ lastAddr := by cases reg <;> decide
  obtain ⟨hread, haddr⟩ := addressByte_parts false ha
  simp [State.bytesRead, rmwFrames, readFrame, writeFrame, hread, haddr, (addressByte_parts true ha).1]

theorem bytesRead_wordReads {first : Reg} (hf : first.addr + 2 ≤ 0x13) : s.bytesRead (wordReads first) =
    [s.byteRead 0 1 first.addr, s.byteRead 1 1 (first.addr + 1), s.byteRead 2 1 (first.addr + 2)] := by
  obtain ⟨hread, haddr⟩ := addressByte_parts false (show first.addr ≤ lastAddr by rw [lastAddr]; omega)
  obtain ⟨hread1, haddr1⟩ := addressByte_parts false (show first.addr + 1 ≤ lastAddr by rw [lastAddr]; omega)
  obtain ⟨hread2, haddr2⟩ := addressByte_parts false (show first.addr + 2 ≤ lastAddr by rw [lastAddr]; omega)
  simp [State.bytesRead, wordReads, readFrame, hread, haddr, hread1, haddr1, hread2, haddr2]

end

end Sys2Proof.Machine
end

section
/-! Every operation sends exactly its row of R108 (R82, R164, R190), and no controller operation writes STAT (R58). -/

namespace Sys2Proof.Machine

/-! ### Programs that send a pattern -/

namespace Prog

/-- Where the platform answers each transfer, the run sends the frames, one after another, and gives the value. -/
def Answers (q : Prog) (s : State) (fs : List Frame) (v : Value) : Prop :=
  s.answersOk (fs.map List.length) = true → q.run s = .done (.ok v) (s.sent fs)

section
variable {s : State} {q : Prog} {fs : List Frame} {v : Value}

theorem Answers.requireReady (h : q.Answers s fs v) (hready : s.ctl.phase = .ready) :
    (requireReady q).Answers s fs v := by
  intro hans
  rw [run_requireReady q hready, h hans]
  rfl

theorem Answers.requireFxosc {cfg : Config} (h : q.Answers s fs v) (hfxosc : legalFxosc cfg.fxosc = true) :
    (requireFxosc cfg q).Answers s fs v := fun hans => (run_requireFxosc q hfxosc).trans (h hans)

/-- The first answer is a success with a response of the first frame's length. -/
theorem answer_of_answersOk {f : Frame} (h : s.answersOk ((f :: fs).map List.length) = true) :
    s.answer.status = .ok ∧ s.answer.rx.length = f.length := by
  rw [← State.answerAt_zero]
  exact (s.answersOk_iff _).mp h 0 f.length rfl

theorem answers_spiTransfer (tx : Frame) {next : Frame → Prog}
    (hnext : (next (s.response tx)).run (s.transferred tx) = .done (.ok v) (s.transferred tx)) :
    (spiTransfer tx next).Answers s [tx] v := by
  intro hans
  obtain ⟨hok, hlen⟩ := answer_of_answersOk hans
  exact (run_spiTransfer next hok hlen).trans hnext

variable (ho : s.ctl.spi.isOpen = true)
include ho

theorem answers_writeReg {a : Nat} (ha : a ≤ 0x13) (b : Byte) :
    (writeReg a b (.ret .unit)).Answers s [writeFrame a b] .unit := by
  intro hans
  obtain ⟨hok, hlen⟩ := answer_of_answersOk hans
  exact run_writeReg _ ho ha hok hlen

theorem answers_readReg {a : Nat} (ha : a ≤ 0x13) (value : Byte → Value) :
    (readReg a fun r => .ret (value r)).Answers s [readFrame a] (value ((s.bytesRead [readFrame a]).headD 0)) := by
  intro hans
  obtain ⟨hok, hlen⟩ := answer_of_answersOk hans
  rw [run_readReg _ ho ha hok hlen, getD_response_readFrame ha hlen, bytesRead_readFrame s ha]
  rfl

theorem answers_burstWrite {a : Nat} {bs : List Byte} (hne : bs ≠ []) (hrange : inRange a bs.length = true) :
    (progBurstWrite a bs).Answers s [burstWriteFrame a bs] .unit := by
  intro hans
  rw [progBurstWrite, run_requireSpi _ ho, if_neg hne, run_requireRange _ hrange]
  exact answers_spiTransfer _ rfl hans

theorem answers_burstRead {a : Nat} {n : Int} (hpos : 0 < n) (hrange : inRange a n.toNat = true) :
    (progBurstRead a n).Answers s [burstReadFrame a n.toNat]
      (.bytes (s.bytesRead [burstReadFrame a n.toNat])) := by
  intro hans
  obtain ⟨-, hlen⟩ := answer_of_answersOk hans
  have ha := (inRange_iff.mp hrange).1
  obtain ⟨hread, haddr⟩ := addressByte_parts false ha
  have hbytes : (s.response (burstReadFrame a n.toNat)).tail = s.bytesRead [burstReadFrame a n.toNat] := by
    have htail := tail_response hread (ds := List.replicate n.toNat 0) (by simpa [burstReadFrame] using hlen)
    rwa [List.length_replicate, haddr, ← bytesRead_burstReadFrame s ha] at htail
  rw [progBurstRead, run_requireSpi _ ho, if_neg (by omega), run_requireRange _ hrange]
  exact answers_spiTransfer _ (by rw [run_ret, hbytes]) hans

theorem answers_readModifyWrite (reg : Reg) (update : Byte → Byte) :
    (readModifyWrite reg update).Answers s (rmwFrames reg (update (s.byteRead 0 1 reg.addr))) .unit := by
  intro hans
  have ha : reg.addr ≤ 0x13 := by cases reg <;> decide
  rw [run_readModifyWrite ho hans, getD_response_readFrame ha (answer_of_answersOk hans).2]
  rfl

theorem answers_writeWord {first : Reg} (hf : first.addr + 2 ≤ 0x13) (w : Nat) :
    (writeWord first w).Answers s (wordFrames first w) .unit := fun hans => run_writeWord hf ho hans

theorem answers_readWord {first : Reg} (hf : first.addr + 2 ≤ 0x13) (value : Nat → Value) :
    (readWord first fun w => .ret (value w)).Answers s (wordReads first)
      (value (joinWord (s.byteRead 0 1 first.addr) (s.byteRead 1 1 (first.addr + 1))
        (s.byteRead 2 1 (first.addr + 2)))) := by
  intro hans
  have hlen : ∀ k < 3, (s.answerAt k).rx.length = 2 := by
    intro k hk
    refine ((s.answersOk_iff _).mp hans k 2 ?_).2
    match k, hk with
    | 0, _ | 1, _ | 2, _ => rfl
  rw [run_readWord _ hf ho hans]
  dsimp only
  rw [getD_response_readFrame (by omega) (by simpa using hlen 0 (by decide)),
    getD_response_readFrame (by omega) (by simpa using hlen 1 (by decide)),
    getD_response_readFrame (by omega) (by simpa using hlen 2 (by decide)),
    byteRead_transferred_readFrame (by omega), byteRead_transferred_readFrame (by omega),
    byteRead_transferred_readFrame (by omega)]
  rfl

theorem answers_writeTable {table : List Host.Cell} (htable : ∀ e ∈ table, e.1 ≤ 0x13) :
    (writeTable table).Answers s (table.map fun e => writeFrame e.1 e.2) .unit := by
  intro hans
  rw [run_writeTable htable ho (by simpa [writeFrame, Function.comp_def] using hans), State.sent, List.foldl_map]

end

end Prog

/-! ### Operations -/

/-- What the operation's checks ask of the state it runs in (R116, R117, R152, R185, R205). -/
structure Accepts (s : State) (i : Instr) : Prop where
  isOpen : s.ctl.spi.isOpen = true
  ready : i.isController = true → s.ctl.phase = .ready
  fxosc : legalFxosc s.cfg.fxosc = true
  table : ∀ e ∈ s.cfg.defaultTable, e.1 ≤ 0x13
  operands : operandsOk i = true

/-- The write of a read-modify-write is computed from the byte that its read gives (R82). -/
theorem patternOf_rmw {s : State} {i : Instr} {reg : Reg} {update : Byte → Byte}
    (h : ∀ r, framesOf s.cfg.fxosc s.cfg.defaultTable r i = rmwFrames reg (update r)) :
    s.patternOf i = rmwFrames reg (update (s.byteRead 0 1 reg.addr)) := by
  rw [State.patternOf, h, h, bytesRead_rmwFrames]
  rfl

section
variable {s : State} {i : Instr} (h : Accepts s i)
include h

theorem Accepts.setGain {fd : Field} {code : Nat} (hctl : i.isController = true)
    (hframes : ∀ r, framesOf s.cfg.fxosc s.cfg.defaultTable r i = rmwFrames fd.reg (fd.insert r code)) :
    (setGain fd code).Answers s (s.patternOf i) .unit := by
  rw [patternOf_rmw hframes]
  exact (Prog.answers_readModifyWrite h.isOpen fd.reg _).requireReady (h.ready hctl)

theorem Accepts.enableBit {b : ModeBit} {on : Bool} (hctl : i.isController = true)
    (hframes : ∀ r, framesOf s.cfg.fxosc s.cfg.defaultTable r i = rmwFrames .mode (putModeBit r b on)) :
    (enableBit b on).Answers s (s.patternOf i) .unit := by
  rw [patternOf_rmw hframes]
  exact (Prog.answers_readModifyWrite h.isOpen .mode _).requireReady (h.ready hctl)

theorem Accepts.writeMode (hctl : i.isController = true) (m : Byte) :
    (writeMode m).Answers s [writeFrame Reg.mode.addr m] .unit :=
  (Prog.answers_writeReg h.isOpen (by decide) m).requireReady (h.ready hctl)

theorem Accepts.readReg (hctl : i.isController = true) {a : Nat} (ha : a ≤ 0x13) (value : Byte → Value) :
    (requireReady (readReg a fun r => .ret (value r))).Answers s [readFrame a]
      (value ((s.bytesRead [readFrame a]).headD 0)) :=
  (Prog.answers_readReg h.isOpen ha value).requireReady (h.ready hctl)

theorem Accepts.setFrequency (hctl : i.isController = true) {first : Reg} (hf : first.addr + 2 ≤ 0x13) {f : Nat}
    (hvalid : validHz f = true) :
    (setFrequency s.cfg first f).Answers s (wordFrames first (tuningWord s.cfg.fxosc f)) .unit := by
  refine Prog.Answers.requireFxosc (Prog.Answers.requireReady ?_ (h.ready hctl)) h.fxosc
  rw [if_pos hvalid]
  exact Prog.answers_writeWord h.isOpen hf _

theorem Accepts.getFrequency (hctl : i.isController = true) {first : Reg} (hf : first.addr + 2 ≤ 0x13) :
    (getFrequency s.cfg first).Answers s (wordReads first)
      (valueRead s.cfg.fxosc (s.bytesRead (wordReads first)) .getRxFrequency) := by
  rw [bytesRead_wordReads s hf]
  exact ((Prog.answers_readWord h.isOpen hf fun w => .hz (wordHz s.cfg.fxosc w)).requireReady
    (h.ready hctl)).requireFxosc h.fxosc

/-- The run of an operation that has frames sends its pattern, and gives what the bytes read stand for. -/
theorem Accepts.answers (hframes : s.patternOf i ≠ []) :
    (programOf s.cfg i).Answers s (s.patternOf i)
      (valueRead s.cfg.fxosc (s.bytesRead (s.patternOf i)) i) := by
  have hoperands := h.operands
  cases i with
  | writeRegister a v => exact Prog.answers_writeReg h.isOpen (of_decide_eq_true hoperands) v
  | readRegister a => exact Prog.answers_readReg h.isOpen (of_decide_eq_true hoperands) .byte
  | burstWrite a vs =>
    simp only [operandsOk, Bool.and_eq_true, Bool.not_eq_true', List.isEmpty_eq_false_iff] at hoperands
    obtain ⟨hne, hrange⟩ := hoperands
    exact Prog.answers_burstWrite h.isOpen hne hrange
  | burstRead a n =>
    simp only [operandsOk, Bool.and_eq_true, decide_eq_true_eq] at hoperands
    obtain ⟨hpos, hrange⟩ := hoperands
    exact Prog.answers_burstRead h.isOpen hpos hrange
  | checkDevice => exact Prog.answers_readReg h.isOpen (by decide) .byte
  | setRxFrequency f | setTxFrequency f => exact h.setFrequency rfl (by decide) hoperands
  | getRxFrequency | getTxFrequency => exact h.getFrequency rfl (by decide)
  | setLnaGain g | setPgaGain g | setDacGain g | setMixerGain g => exact h.setGain rfl fun _ => rfl
  | enableRx on | enableTx on | enablePA on => exact h.enableBit rfl fun _ => rfl
  | setMode m => exact h.writeMode rfl m
  | setModeSleep | setModeStandby | setModeRx | setModeTx | setModeTxFull | setModeFullDuplex =>
    exact h.writeMode rfl _
  | getMode | probe => exact h.readReg rfl (by decide) .byte
  | getStatus => exact h.readReg rfl (by decide) fun b => .status (decodeStatus b)
  | getVersion => exact h.readReg rfl (by decide) fun b => .version (decodeVersion b)
  | initializeWithDefaults => exact (Prog.answers_writeTable h.isOpen h.table).requireReady (h.ready rfl)
  | _ => exact absurd rfl hframes

end

/-! ### The state that an operation runs in -/

/-- What a call reads depends on the configuration, the device, the answers and the time alone (R40, R113). -/
theorem byteRead_congr {s t : State} (hcfg : t.cfg = s.cfg) (hdevice : t.device = s.device)
    (hinputs : t.inputs = s.inputs) (hdrawn : t.drawn = s.drawn) (hnow : t.now = s.now)
    (hlastEnd : t.lastEnd = s.lastEnd) (k j a : Nat) : t.byteRead k j a = s.byteRead k j a := by
  rw [State.byteRead, State.byteRead, State.hazardNext, State.hazardNext, State.drawnByte, State.drawnByte, hcfg,
    hdevice, State.answerAt_congr hinputs hdrawn, State.nextStart_congr hinputs hdrawn hnow hlastEnd]

theorem bytesRead_congr {s t : State} (h : ∀ k j a, t.byteRead k j a = s.byteRead k j a) (fs : List Frame) :
    t.bytesRead fs = s.bytesRead fs := by simp only [State.bytesRead, h]

theorem patternOf_congr {s t : State} (hcfg : t.cfg = s.cfg) (h : ∀ k j a, t.byteRead k j a = s.byteRead k j a)
    (i : Instr) : t.patternOf i = s.patternOf i := by simp only [State.patternOf, hcfg, bytesRead_congr h]

/-- The state in which an operation's program runs: its components in place, and the lock taken. -/
def State.entered (s : State) (i : Instr) : State := (s.view (!i.isController)).takeLock

section
variable (s : State) (i : Instr)

theorem answerAt_entered (k : Nat) : (s.entered i).answerAt k = s.answerAt k := by
  rw [State.entered, State.answerAt_takeLock]
  cases i.isController <;> rfl

theorem byteRead_entered (k j a : Nat) : (s.entered i).byteRead k j a = s.byteRead k j a := by
  apply byteRead_congr <;> cases hctl : i.isController <;> simp [State.entered, State.view, hctl]

theorem cfg_entered : (s.entered i).cfg = s.cfg := by simp [State.entered]

theorem answersOk_entered (lens : List Nat) : (s.entered i).answersOk lens = s.answersOk lens := by
  simp only [State.answersOk, answerAt_entered]

end

theorem accepts_entered {s : State} {i : Instr} (h : s.acceptsRegisterOp i = true) :
    s.lockFree = true ∧ Accepts (s.entered i) i := by
  simp only [State.acceptsRegisterOp, State.spiFor, Bool.and_eq_true, Bool.or_eq_true, Bool.not_eq_true',
    decide_eq_true_eq, List.all_eq_true] at h
  obtain ⟨⟨⟨⟨⟨hfree, hopen⟩, hready⟩, hfxosc⟩, htable⟩, hoperands⟩ := h
  refine ⟨hfree, ?_, fun hctl => ?_, by rw [cfg_entered]; exact hfxosc, by rw [cfg_entered]; exact htable, hoperands⟩
  · cases hctl : i.isController <;> simpa [State.entered, State.view, hctl] using hopen
  · have : s.ctl.phase = .ready := by simpa [hctl] using hready
    simpa [State.entered, State.view, hctl] using this

/-! ### Whole calls -/

section
variable {alone : Bool} {q : Prog} {s t : State} {r : Result}

theorem wholeCall_of_run (h : s.lockFree = true) (hq : q.run (s.view alone).takeLock = .done r t) :
    wholeCall alone q s = .next ((t.releaseLock.deliver r).view alone) := by
  cases alone
  · exact runCall_of_run h hq
  · exact runAlone_of_run h hq

theorem returned_of_wholeCall {fs : List Frame} {side : List (Event × Bool)} (h : s.lockFree = true)
    (hq : q.run (s.view alone).takeLock = .done r t) (hf : t.frames = s.frames ++ fs)
    (hs : t.sideEvents = s.sideEvents ++ side) : Returned s ((t.releaseLock.deliver r).view alone) fs side r := by
  cases alone
  · exact returned_of_run h hq hf hs
  · exact returned_of_runAlone h hq hf hs

/-- A call that leaves the components in its place as they were leaves them all as they were. -/
theorem sameParts_of_wholeCall (hctl : t.ctl = (s.view alone).ctl) (halone : t.alone = (s.view alone).alone) :
    SameParts s ((t.releaseLock.deliver r).view alone) := by
  cases alone
  · exact ⟨by simpa [State.view] using hctl, by simpa [State.view] using halone⟩
  · constructor <;> simp [State.view, State.swapParts, hctl, halone]

end

/-- An accepted operation with frames sends its pattern (R108). -/
theorem exec_sendsPattern {i : Instr} {s : State} (haccepts : s.acceptsRegisterOp i = true)
    (hframes : s.patternOf i ≠ []) (hans : s.answersOk ((s.patternOf i).map List.length) = true) :
    ∃ t, exec i s = .next t ∧
      Returned s t (s.patternOf i) [] (.ok (valueRead s.cfg.fxosc (s.bytesRead (s.patternOf i)) i)) ∧
      SameParts s t ∧ SameLines s t ∧ BusRested t := by
  obtain ⟨hfree, hentered⟩ := accepts_entered haccepts
  have hpattern := patternOf_congr (cfg_entered s i) (byteRead_entered s i) i
  have hrun := hentered.answers (hpattern ▸ hframes) (by rw [hpattern, answersOk_entered]; exact hans)
  rw [hpattern, bytesRead_congr (byteRead_entered s i), cfg_entered] at hrun
  have hdevice : SameLines s (s.entered i) := .of_device (by simp [State.entered])
  refine ⟨_, (exec_eq_wholeCall i s).trans (wholeCall_of_run hfree hrun),
    returned_of_wholeCall hfree hrun ?_ ?_, sameParts_of_wholeCall ?_ ?_, ?_, ?_⟩
  · simp [State.frames_congr (s := s) (t := s.entered i) (by simp [State.entered])]
  · simp [State.sideEvents_congr (s := s) (t := s.entered i) (by simp [State.entered])]
  · simp [State.entered]
  · simp [State.entered]
  · exact (hdevice.trans (sameLines_sent _ (s.patternOf i))).trans (.of_device (by simp))
  · have := busRested_sent (s.entered i) hframes
    simpa [BusRested] using this

/-! ### STAT is never written (R58) -/

theorem head?_readFrame_ne (a : Nat) : (readFrame a).head? ≠ some 0x91 := by
  intro h
  have hbit := congrArg isWrite (Option.some.inj h)
  have hread : isWrite (addressByte false a) = false := by simp [isWrite, addressByte]
  rw [hread] at hbit
  exact absurd hbit (by decide)

theorem head?_writeFrame_ne {a : Nat} (ha : a ≤ 0x13) (hstat : a ≠ Reg.stat.addr) (v : Byte) :
    (writeFrame a v).head? ≠ some 0x91 := by
  intro h
  have haddr := congrArg frameAddr (Option.some.inj h)
  rw [(addressByte_parts true ha).2] at haddr
  exact hstat (haddr.trans (by decide))

/-- No frame of the pattern writes STAT. -/
def SparesStat (fs : List Frame) : Prop := ∀ f ∈ fs, f.head? ≠ some 0x91

theorem SparesStat.nil : SparesStat [] := fun _ hf => nomatch hf

theorem SparesStat.read {fs : List Frame} (h : SparesStat fs) (a : Nat) : SparesStat (readFrame a :: fs) :=
  List.forall_mem_cons.mpr ⟨head?_readFrame_ne a, h⟩

theorem SparesStat.write {fs : List Frame} {a : Nat} {v : Byte} (h : SparesStat fs) (ha : a ≤ 0x13)
    (hstat : a ≠ Reg.stat.addr) : SparesStat (writeFrame a v :: fs) :=
  List.forall_mem_cons.mpr ⟨head?_writeFrame_ne ha hstat v, h⟩

theorem sparesStat_wordFrames {first : Reg} (h : first.addr + 2 < Reg.stat.addr) (w : Nat) :
    SparesStat (wordFrames first w) := by
  have hlast : Reg.stat.addr = 0x11 := rfl
  exact ((SparesStat.nil.write (by omega) (by omega)).write (by omega) (by omega)).write (by omega) (by omega)

/-- No controller operation's pattern writes STAT, where `DEFAULT_TABLE` does not (R58, R205). -/
theorem sparesStat_framesOf (fxosc : Nat) {table : List Host.Cell} {i : Instr} (hctl : i.isController = true)
    (htable : ∀ e ∈ table, e.1 ≤ 0x13 ∧ e.1 ≠ Reg.stat.addr) (r : Byte) :
    SparesStat (framesOf fxosc table r i) := by
  cases i with
  | setRxFrequency f | setTxFrequency f => exact sparesStat_wordFrames (by decide) _
  | getRxFrequency | getTxFrequency => exact ((SparesStat.nil.read _).read _).read _
  | setLnaGain g | setPgaGain g | setDacGain g | setMixerGain g =>
    exact (SparesStat.nil.write (by decide) (by decide)).read _
  | enableRx on | enableTx on | enablePA on => exact (SparesStat.nil.write (by decide) (by decide)).read _
  | setMode m => exact SparesStat.nil.write (by decide) (by decide)
  | setModeSleep | setModeStandby | setModeRx | setModeTx | setModeTxFull | setModeFullDuplex =>
    exact SparesStat.nil.write (by decide) (by decide)
  | getMode | getStatus | getVersion | probe => exact SparesStat.nil.read _
  | initializeWithDefaults =>
    intro f hf
    obtain ⟨e, he, rfl⟩ := List.mem_map.mp hf
    exact head?_writeFrame_ne (htable e he).1 (htable e he).2 e.2
  | openController | closeController | setTxRxSwitch | getTxRxSwitch | resetDevice => exact SparesStat.nil
  | _ => cases hctl

/-- Settles O19: an accepted operation's checks all pass, so that its run is its transfers one after another; and of
the registers a controller operation writes none is STAT. -/
theorem operationsSendTheirPattern : Obligations.OperationsSendTheirPattern := by
  refine ⟨fun i s => exec_sendsPattern, fun i s hctl hlegal => sparesStat_framesOf _ hctl ?_ _⟩
  simp only [Config.legal, legalDefaultTable, Bool.and_eq_true, List.all_eq_true, decide_eq_true_eq,
    bne_iff_ne] at hlegal
  obtain ⟨-, -, htable⟩ := hlegal
  exact htable

end Sys2Proof.Machine
end

section
/-! The operations of the transport used alone: what an operation leaves once its program has run, the opening and the
closing, the checks, and the accesses of one transfer (R114 to R123, R131). -/

namespace Sys2Proof.Machine

/-! ### The state after an operation -/

/-- The state in which an operation returns, where its program's run ends in this one: the lock released, the result
delivered, and the components back in their places. -/
def State.afterCall (t : State) (i : Instr) (r : Result) : State :=
  (t.releaseLock.deliver r).view (!i.isController)

namespace State

section
variable (t : State) (i : Instr) (r : Result)

@[simp] theorem afterCall_device : (t.afterCall i r).device = t.device := by simp [afterCall]
@[simp] theorem afterCall_lastEnd : (t.afterCall i r).lastEnd = t.lastEnd := by simp [afterCall]
@[simp] theorem afterCall_now : (t.afterCall i r).now = t.now := by simp [afterCall]
@[simp] theorem afterCall_trace : (t.afterCall i r).trace = t.trace := by simp [afterCall]

/-- An operation used alone gives the controller its own two components back. -/
theorem afterCall_ctl (hi : i.isController = false) :
    (t.afterCall i r).ctl = { t.ctl with spi := t.alone.spi, gpio := t.alone.gpio } := by
  simp [afterCall, view, swapParts, hi]

theorem afterCall_alone (hi : i.isController = false) : (t.afterCall i r).alone = ⟨t.ctl.spi, t.ctl.gpio⟩ := by
  simp [afterCall, hi]

end

section
variable (s : State) (i : Instr)

@[simp] theorem entered_device : (s.entered i).device = s.device := by simp [entered]
@[simp] theorem entered_lastEnd : (s.entered i).lastEnd = s.lastEnd := by simp [entered]
@[simp] theorem entered_now : (s.entered i).now = s.now := by simp [entered]
@[simp] theorem entered_trace : (s.entered i).trace = s.trace := by simp [entered]
@[simp] theorem entered_caller : (s.entered i).caller = s.caller := by simp [entered]

@[simp] theorem entered_answer : (s.entered i).answer = s.answer := by
  rw [← answerAt_zero, answerAt_entered, answerAt_zero]

@[simp] theorem entered_frames : (s.entered i).frames = s.frames := frames_congr (entered_trace s i)

@[simp] theorem entered_sideEvents : (s.entered i).sideEvents = s.sideEvents := sideEvents_congr (entered_trace s i)

@[simp] theorem entered_busReady : (s.entered i).busReady = s.busReady := by simp [busReady]

@[simp] theorem entered_nextStart : (s.entered i).nextStart = s.nextStart := by simp [nextStart_eq]

@[simp] theorem entered_nextEnd (tx : Frame) : (s.entered i).nextEnd tx = s.nextEnd tx := by
  simp [nextEnd, clocking, cfg_entered]

variable {i} (hi : i.isController = false)
include hi

theorem entered_ctl : (s.entered i).ctl = { s.ctl with spi := s.alone.spi, gpio := s.alone.gpio } := by
  simp [entered, view, swapParts, hi]

theorem entered_alone : (s.entered i).alone = ⟨s.ctl.spi, s.ctl.gpio⟩ := by simp [entered, hi]

theorem entered_spi : (s.entered i).ctl.spi = s.alone.spi := by rw [entered_ctl s hi]

end

end State

section
variable {i : Instr} {s t : State} {r : Result} (hfree : s.lockFree = true)
include hfree

theorem exec_of_run (hrun : (programOf s.cfg i).run (s.entered i) = .done r t) :
    exec i s = .next (t.afterCall i r) :=
  (exec_eq_wholeCall i s).trans (wholeCall_of_run hfree hrun)

theorem returned_of_exec {fs : List Frame} {side : List (Event × Bool)}
    (hrun : (programOf s.cfg i).run (s.entered i) = .done r t) (hf : t.frames = s.frames ++ fs)
    (hs : t.sideEvents = s.sideEvents ++ side) : Returned s (t.afterCall i r) fs side r :=
  returned_of_wholeCall hfree hrun hf hs

/-- An operation used alone that only looks changes nothing but its return. -/
theorem exec_of_run_unchanged (hi : i.isController = false)
    (hrun : (programOf s.cfg i).run (s.entered i) = .done r (s.entered i)) : exec i s = .next (s.deliver r) := by
  have hlock : (s.entered i).releaseLock = s.swapParts := by
    rw [State.entered, hi]
    exact releaseLock_takeLock (s := s.swapParts) hfree
  rw [exec_of_run hfree hrun, State.afterCall, hlock, hi]
  rfl

end

/-- A run that leaves the components in its place leaves all of them, when its operation returns. -/
theorem sameParts_afterCall {s t : State} {i : Instr} (r : Result) (hctl : t.ctl = (s.entered i).ctl)
    (halone : t.alone = (s.entered i).alone) : SameParts s (t.afterCall i r) :=
  sameParts_of_wholeCall (by simpa [State.entered] using hctl) (by simpa [State.entered] using halone)

/-! ### Opening and closing (R114, R115, R131) -/

/-- A run of an operation used alone that changes its transport, and neither the bus nor the device. -/
theorem onlySpi_afterCall {s t : State} {i : Instr} {r : Result} {p : Transport} (hi : i.isController = false)
    (hctl : t.ctl = { (s.entered i).ctl with spi := p }) (halone : t.alone = (s.entered i).alone)
    (hdevice : t.device = s.device) (hlastEnd : t.lastEnd = s.lastEnd) :
    (t.afterCall i r).alone = { s.alone with spi := p } ∧ (t.afterCall i r).ctl = s.ctl ∧
      (t.afterCall i r).device = s.device ∧ (t.afterCall i r).lastEnd = s.lastEnd := by
  rw [t.afterCall_alone i r hi, t.afterCall_ctl i r hi, t.afterCall_device, t.afterCall_lastEnd, hctl, halone,
    s.entered_ctl hi, s.entered_alone hi]
  exact ⟨rfl, rfl, hdevice, hlastEnd⟩

theorem frame?_of_isSide {ev : Event} (h : ev.isSide = true) : ev.frame? = none := by
  cases ev with
  | xfer tx rx => cases h
  | _ => rfl

section
variable {s : State} (hfree : s.lockFree = true)
include hfree

/-- A call whose run leaves one line or resource event on the trace. -/
theorem returned_of_attempted {i : Instr} {t : State} {r : Result} {ev : Event} {ok : Bool} (hev : ev.isSide = true)
    (hrun : (programOf s.cfg i).run (s.entered i) = .done r t)
    (htrace : t.trace = ((s.entered i).attempted ev ok).trace) : Returned s (t.afterCall i r) [] [(ev, ok)] r := by
  refine returned_of_exec hfree hrun ?_ ?_
  · simp [State.frames_congr htrace, frame?_of_isSide hev]
  · simp [State.sideEvents_congr htrace, hev]

theorem exec_spiOpen_open (hopen : s.alone.spi.isOpen = true) :
    exec .spiOpen s = .next (s.rejected .resourceUnavailable .transportAlreadyOpen) := by
  refine exec_of_run_unchanged hfree rfl ?_
  rw [programOf, progSpiOpen, Prog.run_uninterrupted, Prog.run_openTransport, s.entered_spi rfl, if_pos hopen]

theorem exec_spiOpen_ok (hopen : s.alone.spi.isOpen = false) (hok : s.answer.status = .ok) :
    ∃ t, exec .spiOpen s = .next t ∧
      Returned s t [] [(.spiOpen s.cfg.spiDevice 0 8 s.cfg.spiSpeedHz, true)] (.ok .unit) ∧
      t.alone = { s.alone with spi := ⟨true, s.cfg.spiDevice, 0, 8, s.cfg.spiSpeedHz⟩ } ∧
      t.ctl = s.ctl ∧ t.device = s.device ∧ t.lastEnd = s.lastEnd := by
  have hrun := Prog.run_openTransport (s.entered .spiOpen)
  rw [s.entered_spi rfl, if_neg (by simp [hopen]), s.entered_answer, hok, cfg_entered,
    ← Prog.run_uninterrupted] at hrun
  refine ⟨_, exec_of_run hfree hrun, returned_of_attempted hfree rfl hrun rfl,
    onlySpi_afterCall rfl ?_ rfl (s.entered_device _) (s.entered_lastEnd _)⟩
  simp [Write.apply, State.configureSpi, cfg_entered]

theorem exec_spiOpen_failed (hopen : s.alone.spi.isOpen = false) (hfailed : s.answer.status = .failed) :
    ∃ t, exec .spiOpen s = .next t ∧
      Returned s t [] [(.spiOpen s.cfg.spiDevice 0 8 s.cfg.spiSpeedHz, false)]
        (.err ⟨.resourceUnavailable, .spiDeviceCannotOpen, []⟩) ∧
      SameParts s t ∧ t.device = s.device ∧ t.lastEnd = s.lastEnd := by
  have hrun := Prog.run_openTransport (s.entered .spiOpen)
  rw [s.entered_spi rfl, if_neg (by simp [hopen]), s.entered_answer, hfailed, cfg_entered,
    ← Prog.run_uninterrupted] at hrun
  exact ⟨_, exec_of_run hfree hrun, returned_of_attempted hfree rfl hrun rfl, sameParts_afterCall _ rfl rfl,
    by simp, by simp⟩

theorem exec_spiClose_closed (hopen : s.alone.spi.isOpen = false) :
    exec .spiClose s = .next (s.deliver (.ok .unit)) := by
  refine exec_of_run_unchanged hfree rfl ?_
  rw [programOf, progSpiClose, Prog.run_uninterrupted, Prog.run_closeTransport, s.entered_spi rfl,
    if_neg (by simp [hopen])]

/-- A close that is not stuck closes, whatever the release reports (R115). -/
theorem exec_spiClose_open (hopen : s.alone.spi.isOpen = true) (hends : s.answer.status ≠ .stalled) :
    ∃ t, exec .spiClose s = .next t ∧
      Returned s t [] [(.spiRelease, s.answer.status == .ok)]
        (if s.answer.status = .ok then .ok .unit else .err ⟨.transportFailure, .releaseError, []⟩) ∧
      t.alone = { s.alone with spi := { s.alone.spi with isOpen := false } } ∧
      t.ctl = s.ctl ∧ t.device = s.device ∧ t.lastEnd = s.lastEnd := by
  have hrun : (programOf s.cfg .spiClose).run (s.entered .spiClose) = .done
      (if s.answer.status = .ok then .ok .unit else .err ⟨.transportFailure, .releaseError, []⟩)
      { (s.entered .spiClose).attempted .spiRelease (s.answer.status == .ok) with
        ctl := Write.apply (s.entered .spiClose).ctl (.spiOpen false) } := by
    rw [programOf, progSpiClose, Prog.run_uninterrupted, Prog.run_closeTransport, s.entered_spi rfl, if_pos hopen,
      s.entered_answer]
    cases hstatus : s.answer.status with
    | ok | failed => rfl
    | stalled => exact absurd hstatus hends
  refine ⟨_, exec_of_run hfree hrun, returned_of_attempted hfree rfl hrun rfl,
    onlySpi_afterCall rfl ?_ rfl (s.entered_device _) (s.entered_lastEnd _)⟩
  simp [Write.apply, s.entered_spi (i := .spiClose) rfl]

end

/-- Settles O14: each of the two operations looks at `spi.open` of the transport used alone, asks the platform once at
most, and ends as it answers. -/
theorem transportOpensAndCloses : Obligations.TransportOpensAndCloses := fun _ hfree =>
  ⟨exec_spiOpen_open hfree, exec_spiOpen_ok hfree, exec_spiOpen_failed hfree, exec_spiClose_closed hfree,
   exec_spiClose_open hfree⟩

/-! ### The checks (R116, R117) -/

section
variable {s : State} (hfree : s.lockFree = true)
include hfree

/-- An operation that asks for an open transport fails on a closed one (R117). -/
theorem exec_transportClosed {i : Instr} {q : Prog} (hi : i.isController = false)
    (hprog : programOf s.cfg i = requireSpi q) (hclosed : s.alone.spi.isOpen = false) :
    exec i s = .next (s.rejected .invalidState .transportNotOpen) := by
  refine exec_of_run_unchanged hfree hi ?_
  rw [hprog, Prog.run_requireSpi_not _ (by rw [s.entered_spi hi, hclosed])]

/-- An operation whose next check fails, on an open transport. -/
theorem exec_checkFails {i : Instr} {q : Prog} {kind : ErrorKind} {info : ErrorInfo} (hi : i.isController = false)
    (hprog : programOf s.cfg i = requireSpi q) (hopen : s.alone.spi.isOpen = true)
    (hq : q.run (s.entered i) = .done (.err ⟨kind, info, []⟩) (s.entered i)) :
    exec i s = .next (s.rejected kind info) := by
  refine exec_of_run_unchanged hfree hi ?_
  rw [hprog, Prog.run_requireSpi _ (by rw [s.entered_spi hi, hopen]), hq]

end

theorem inRange_false {a n : Nat} (h : 0x13 < a ∨ 0x13 < a + n - 1) : inRange a n = false := by
  rw [Bool.eq_false_iff, Ne, inRange_iff]
  omega

/-- Settles O18: the open check comes first in all five, then the burst's shape, then the range, and a check that
fails ends the operation where it stands. -/
theorem registerOperationChecks : Obligations.RegisterOperationChecks := by
  refine fun s hfree => ⟨fun hclosed a v vs n i hi => ?_, fun hopen => ⟨fun a v ha => ⟨?_, ?_⟩, fun a n hn => ⟨?_, ?_⟩,
    fun a vs hvs ha => ?_, fun a n hn ha => ?_⟩⟩
  · simp only [List.mem_cons, List.not_mem_nil, or_false] at hi
    rcases hi with rfl | rfl | rfl | rfl | rfl <;> exact exec_transportClosed hfree rfl rfl hclosed
  · exact exec_checkFails hfree rfl rfl hopen (Prog.run_requireRange_not _ (inRange_false (.inl ha)))
  · exact exec_checkFails hfree rfl rfl hopen (Prog.run_requireRange_not _ (inRange_false (.inl ha)))
  · exact exec_checkFails hfree rfl rfl hopen rfl
  · exact exec_checkFails hfree rfl rfl hopen (by rw [if_pos hn, Prog.run_raise])
  · exact exec_checkFails hfree rfl rfl hopen
      (by rw [if_neg hvs, Prog.run_requireRange_not _ (inRange_false (.inr ha))])
  · exact exec_checkFails hfree rfl rfl hopen (by
      rw [if_neg (by omega), Int.toNat_natCast, Prog.run_requireRange_not _ (inRange_false (.inr ha))])

/-! ### One transfer -/

namespace State

/-- The wait at the head of the next transfer, where there is one (R113; assumption 6). -/
def busWait (s : State) : List Stamp :=
  if s.now < s.busReady then [⟨s.now, s.busReady, s.caller, .gap gapNanos, true⟩] else []

theorem awaitBus_trace (s : State) : s.awaitBus.trace = s.trace ++ s.busWait := by
  unfold awaitBus busWait
  split <;> simp

/-- The events of a transfer that goes through: a wait where the bus is not ready, the transfer, and its gap (R112,
R113). -/
theorem transferred_trace (s : State) (tx : Frame) : (s.transferred tx).trace = s.trace ++ s.busWait ++
    [⟨s.nextStart, s.nextEnd tx, s.caller, .xfer tx (s.response tx), true⟩,
     ⟨s.nextEnd tx, s.nextEnd tx + gapNanos + s.answer.after, s.caller, .gap gapNanos, true⟩] := by
  have hwait : s.consume.awaitBus.trace = s.trace ++ s.busWait := s.consume.awaitBus_trace
  simp [transferred, hwait]

theorem busReady_of_lastEnd {s : State} {e : Nat} (h : s.lastEnd = some e) : s.busReady = e + gapNanos := by
  simp [busReady, h]

theorem busWait_ready {s : State} (h : ∀ e, s.lastEnd = some e → e + gapNanos ≤ s.now) : s.busWait = [] := by
  refine if_neg ?_
  cases hend : s.lastEnd with
  | none => simp [busReady, hend]
  | some e =>
    rw [busReady_of_lastEnd hend]
    exact Nat.not_lt.mpr (h e hend)

theorem busWait_early {s : State} {e : Nat} (hend : s.lastEnd = some e) (h : s.now < e + gapNanos) :
    s.busWait = [⟨s.now, e + gapNanos, s.caller, .gap gapNanos, true⟩] := by
  rw [busWait, busReady_of_lastEnd hend, if_pos h]

@[simp] theorem entered_busWait (s : State) (i : Instr) : (s.entered i).busWait = s.busWait := by simp [busWait]

/-- The state after an operation that sends one frame and then returns. -/
def exchanged (s : State) (i : Instr) (f : Frame) (v : Value) : State :=
  ((s.entered i).transferred f).afterCall i (.ok v)

section
variable (s : State) (i : Instr) (f : Frame) (v : Value)

theorem exchanged_device : (s.exchanged i f v).device = s.device.accept s.nextStart f true := by simp [exchanged]

theorem exchanged_lastEnd : (s.exchanged i f v).lastEnd = some (s.nextEnd f) := by simp [exchanged]

theorem exchanged_now : (s.exchanged i f v).now = s.nextEnd f + gapNanos + s.answer.after := by simp [exchanged]

theorem exchanged_trace : (s.exchanged i f v).trace = s.trace ++ s.busWait ++
    [⟨s.nextStart, s.nextEnd f, s.caller, .xfer f ((s.entered i).response f), true⟩,
     ⟨s.nextEnd f, s.nextEnd f + gapNanos + s.answer.after, s.caller, .gap gapNanos, true⟩] := by
  simp [exchanged, transferred_trace]

theorem sameParts_exchanged : SameParts s (s.exchanged i f v) := sameParts_afterCall _ (by simp) (by simp)

theorem sameLines_exchanged : SameLines s (s.exchanged i f v) := by constructor <;> simp [exchanged_device]

theorem busRested_exchanged : BusRested (s.exchanged i f v) :=
  ⟨s.nextEnd f, s.exchanged_lastEnd i f v, by rw [exchanged_now]; omega⟩

theorem exchanged_hazard (h : s.hazardNext = true) : (s.exchanged i f v).device = { s.device with regs := [] } := by
  rw [exchanged_device, Device.accept_hazard f true h]

end

end State

section
variable {s : State} {i : Instr} {f : Frame} {v : Value} (hfree : s.lockFree = true)
  (hrun : (programOf s.cfg i).Answers (s.entered i) [f] v) (hans : s.answersOk [f.length] = true)
include hfree hrun hans

theorem exec_exchanged : exec i s = .next (s.exchanged i f v) :=
  exec_of_run hfree (hrun (by rwa [answersOk_entered]))

theorem returned_exchanged : Returned s (s.exchanged i f v) [f] [] (.ok v) :=
  returned_of_exec hfree (hrun (by rwa [answersOk_entered])) (by simp) (by simp)

end

/-! ### Writes (R118, R120) -/

/-- The cells that a burst writes: its bytes, at ascending addresses (R74, R93). -/
def burstCells (a : Nat) (vs : List Byte) : List Host.Cell := vs.zipIdx.map fun p => (a + p.2, p.1)

theorem mem_burstCells {a : Nat} {vs : List Byte} {e : Host.Cell} :
    e ∈ burstCells a vs ↔ ∃ k, vs[k]? = some e.2 ∧ e.1 = a + k := by
  obtain ⟨x, b⟩ := e
  simp only [burstCells, List.mem_map, Prod.exists, List.mem_zipIdx_iff_getElem?, Prod.mk.injEq]
  constructor
  · rintro ⟨_, k, hk, rfl, rfl⟩
    exact ⟨k, hk, rfl⟩
  · rintro ⟨k, hk, rfl⟩
    exact ⟨b, k, hk, rfl, rfl⟩

theorem outside_of_notMem_burstCells {a x : Nat} {vs : List Byte} (h : x ∉ (burstCells a vs).map Prod.fst) :
    x < a ∨ a + vs.length ≤ x := by
  by_contra hin
  have hk : x - a < vs.length := by omega
  refine h (List.mem_map.mpr ⟨(x, vs[x - a]), mem_burstCells.mpr ⟨x - a, ?_, ?_⟩, rfl⟩)
  · simp [hk]
  · show x = a + (x - a)
    omega

/-- A write frame's registers take its bytes, outside a hazard (R118, R120). -/
theorem accept_burstWriteFrame {d : Device} {t a : Nat} (ha : a ≤ 0x13) (vs : List Byte)
    (hz : d.hazard t = false) : d.accept t (burstWriteFrame a vs) true =
      { d with regs := Memory.writeRun a vs d.regs } := by
  obtain ⟨hwrite, haddr⟩ := addressByte_parts true ha
  simp [Device.accept, burstWriteFrame, hz, hwrite, haddr]

/-- The effect of a write frame: its cells, and no other register (R118, R120, R248). -/
theorem wroteRegs_exchanged (s : State) (i : Instr) (v : Value) {a : Nat} {vs : List Byte} (ha : a ≤ 0x13)
    (hrange : a + vs.length ≤ 0x14) :
    WroteRegs s (s.exchanged i (burstWriteFrame a vs) v) (burstCells a vs) where
  parts := s.sameParts_exchanged i _ v
  lines := s.sameLines_exchanged i _ v
  others hz x hx := by
    rw [State.exchanged_device, accept_burstWriteFrame ha vs hz]
    exact Memory.read_writeRun_outside (outside_of_notMem_burstCells hx)
  values hz _ e he hversion hstat := by
    obtain ⟨k, hk, haddr⟩ := mem_burstCells.mp he
    obtain ⟨hlt, -⟩ := List.getElem?_eq_some_iff.mp hk
    rw [haddr] at hversion hstat
    rw [State.exchanged_device, accept_burstWriteFrame ha vs hz, haddr, ← hk]
    exact Memory.read_writeRun_inside hlt (by rw [lastAddr]; omega) hversion hstat
  hazardous hz x _ := by rw [s.exchanged_hazard i _ v hz]; rfl
  rested := s.busRested_exchanged i _ v

/-- Settles O15: the run is one transfer, whose trace is `transferred_trace` and whose effect on the registers is that
of a burst of one byte. -/
theorem writeRegisterCompletes : Obligations.WriteRegisterCompletes := by
  intro s a v hfree hopen ha hans
  have hrun : (programOf s.cfg (.writeRegister a v)).Answers (s.entered (.writeRegister a v)) [writeFrame a v] .unit :=
    Prog.answers_writeReg (by rw [s.entered_spi rfl, hopen]) ha v
  obtain ⟨hok, hlen⟩ := Prog.answer_of_answersOk (f := writeFrame a v) (fs := []) hans
  have hready : s.busReady ≤ s.nextStart := s.le_nextStart.2
  refine ⟨_, s.busWait, s.nextStart, s.nextEnd (writeFrame a v),
    s.nextEnd (writeFrame a v) + gapNanos + s.answer.after, (s.entered (.writeRegister a v)).response (writeFrame a v),
    exec_exchanged hfree hrun hans, returned_exchanged hfree hrun hans,
    wroteRegs_exchanged s _ _ ha (vs := [v]) (Nat.succ_le_succ ha), fun hz => ?_, s.exchanged_trace _ _ _, ?_,
    s.le_nextStart.1, ?_, ?_, s.exchanged_lastEnd _ _ _, s.exchanged_now _ _ _, fun e he => ?_, State.busWait_ready,
    fun e => State.busWait_early⟩
  · rw [s.exchanged_hazard _ _ _ hz]
  · rw [State.length_response, s.entered_answer, hlen]; rfl
  · rw [State.nextEnd, Nat.add_assoc]; exact Nat.le_add_right _ _
  · exact Nat.le_add_right _ _
  · exact State.busReady_of_lastEnd he ▸ hready

/-! ### Reads (R119, R121, R122) -/

/-- A read changes no register, but a hazard leaves none known (R119, R121, R248). -/
theorem readRegs_exchanged (s : State) (i : Instr) (v : Value) {a : Nat} (ha : a ≤ 0x13) (ds : List Byte) :
    ReadRegs s (s.exchanged i (addressByte false a :: ds) v) where
  parts := s.sameParts_exchanged i _ v
  device := by
    cases hz : s.hazardNext with
    | true => exact s.exchanged_hazard i _ v hz
    | false =>
      rw [State.hazardNext] at hz
      simp [State.exchanged_device, Device.accept, hz, (addressByte_parts false ha).1]
  rested := s.busRested_exchanged i _ v

/-- An operation used alone that is one register read (R119, R122). -/
theorem exec_returnReg {i : Instr} {s : State} {a : Nat} (hi : i.isController = false)
    (hprog : programOf s.cfg i = returnReg a) (hfree : s.lockFree = true) (hopen : s.alone.spi.isOpen = true)
    (ha : a ≤ 0x13) (hans : s.answersOk [2] = true) :
    ∃ t, exec i s = .next t ∧ Returned s t [readFrame a] [] (.ok (.byte (s.byteRead 0 1 a))) ∧ ReadRegs s t := by
  have hrun : (programOf s.cfg i).Answers (s.entered i) [readFrame a] (.byte (s.byteRead 0 1 a)) := by
    have hread := Prog.answers_readReg (s := s.entered i) (by rw [s.entered_spi hi, hopen]) ha .byte
    rw [bytesRead_readFrame _ ha, byteRead_entered] at hread
    rwa [hprog]
  exact ⟨_, exec_exchanged hfree hrun hans, returned_exchanged hfree hrun hans, readRegs_exchanged s i _ ha [0]⟩

/-- Settles O16: both operations are one register read, the probe that of VERSION. -/
theorem readRegisterCompletes : Obligations.ReadRegisterCompletes := fun _ hfree hopen hans =>
  ⟨fun _ ha => exec_returnReg rfl rfl hfree hopen ha hans, exec_returnReg (a := 0x07) rfl rfl hfree hopen (by decide) hans⟩

/-! ### Bursts (R120, R121) -/

section
variable {s : State} {a : Nat} (hfree : s.lockFree = true) (hopen : s.alone.spi.isOpen = true)
include hfree hopen

theorem exec_burstWrite {vs : List Byte} (hne : vs ≠ []) (hrange : a + vs.length ≤ 0x14)
    (hans : s.answersOk [vs.length + 1] = true) :
    ∃ t, exec (.burstWrite a vs) s = .next t ∧ Returned s t [burstWriteFrame a vs] [] (.ok .unit) ∧
      WroteRegs s t (burstCells a vs) ∧ (s.hazardNext = true → t.device.regs = []) := by
  have hpos := List.length_pos_iff.mpr hne
  have hrun : (programOf s.cfg (.burstWrite a vs)).Answers (s.entered (.burstWrite a vs)) [burstWriteFrame a vs] .unit :=
    Prog.answers_burstWrite (by rw [s.entered_spi rfl, hopen]) hne (inRange_iff.mpr (by omega))
  refine ⟨_, exec_exchanged hfree hrun hans, returned_exchanged hfree hrun hans,
    wroteRegs_exchanged s _ _ (by omega) hrange, fun hz => ?_⟩
  rw [s.exchanged_hazard _ _ _ hz]

theorem exec_burstRead {n : Nat} (hpos : 0 < n) (hrange : a + n ≤ 0x14) (hans : s.answersOk [n + 1] = true) :
    ∃ t bs, exec (.burstRead a n) s = .next t ∧ Returned s t [burstReadFrame a n] [] (.ok (.bytes bs)) ∧
      bs.length = n ∧ (∀ k < n, bs[k]? = some (s.byteRead 0 (k + 1) (a + k))) ∧ ReadRegs s t := by
  have ha : a ≤ 0x13 := by omega
  have hrun : (programOf s.cfg (.burstRead a n)).Answers (s.entered (.burstRead a n)) [burstReadFrame a n]
      (.bytes ((List.range n).map fun k => s.byteRead 0 (k + 1) (a + k))) := by
    have hread := Prog.answers_burstRead (s := s.entered (.burstRead a n)) (by rw [s.entered_spi rfl, hopen])
      (a := a) (n := n) (by omega) (inRange_iff.mpr (by omega))
    simp only [Int.toNat_natCast, bytesRead_burstReadFrame _ ha, byteRead_entered] at hread
    exact hread
  have hlen : s.answersOk [(burstReadFrame a n).length] = true := by simpa [burstReadFrame] using hans
  refine ⟨_, _, exec_exchanged hfree hrun hlen, returned_exchanged hfree hrun hlen, by simp, fun k hk => ?_,
    readRegs_exchanged s _ _ ha _⟩
  simp [hk]

end

/-- Settles O17: a burst is one transfer, whose bytes are those of ascending addresses. -/
theorem burstsComplete : Obligations.BurstsComplete := fun _ hfree hopen =>
  ⟨fun _ _ => exec_burstWrite hfree hopen, fun _ _ => exec_burstRead hfree hopen⟩

end Sys2Proof.Machine
end

section
/-! A transfer that ends its operation: the frames before it stay sent, none follows, and the operation returns what the
transfer gives it (R113, R124, R126, R158, R206). -/

namespace Sys2Proof.Machine

/-! ### Programs that stop at a transfer -/

namespace Prog

/-- Where the transfer of a frame of the pattern ends every program it heads in one and the same way, and the platform
answers the transfers before it, the run sends the frames before it and ends in that way: a way that a controller
operation's check for `InvalidState` passes on. -/
def StopsAt (q : Prog) (s : State) (fs : List Frame) : Prop :=
  ∀ (k : Nat) (f : Frame) (x : Ran), fs[k]? = some f → s.answersOk (List.replicate k 2) = true →
    (∀ next, (spiTransfer f next).run (s.sent (fs.take k)) = x) → x.inController = x → q.run s = x

/-- Of some transfers that go through with responses of two bytes, the first one's answer, and those that the later ones
find. -/
theorem answersOk_replicate_succ {s : State} {k : Nat} (h : s.answersOk (List.replicate (k + 1) 2) = true) (f : Frame) :
    (s.answer.status = .ok ∧ s.answer.rx.length = 2) ∧
      (s.transferred f).answersOk (List.replicate k 2) = true := by
  rw [State.answersOk_iff] at h
  refine ⟨by simpa using h 0 2 (by simp), (State.answersOk_iff _ _).mpr fun j n hj => ?_⟩
  rw [State.transferred_answerAt]
  exact h (j + 1) n (by simpa [List.replicate_succ] using hj)

section
variable {s : State} {q q' : Prog} {fs : List Frame}

/-- A program that sends nothing has no transfer to stop at. -/
theorem stopsAt_nil : q.StopsAt s [] := fun _ _ _ hf => nomatch hf

theorem StopsAt.of_run (h : q.StopsAt s fs) (hrun : q'.run s = q.run s) : q'.StopsAt s fs :=
  fun k f x hf hans hx hctl => hrun.trans (h k f x hf hans hx hctl)

theorem StopsAt.requireReady (h : q.StopsAt s fs) (hready : s.ctl.phase = .ready) :
    (requireReady q).StopsAt s fs := by
  intro k f x hf hans hx hctl
  rw [run_requireReady q hready, h k f x hf hans hx hctl, hctl]

/-- A program that heads for the first frame's transfer stops there; and where that one goes through, it stops where
what is left of it does. -/
theorem StopsAt.cons {f : Frame} {next : Frame → Prog} (h : q'.StopsAt (s.transferred f) fs)
    (hfirst : q.run s = (spiTransfer f next).run s)
    (hrest : s.answer.status = .ok → s.answer.rx.length = 2 → q.run s = q'.run (s.transferred f)) :
    q.StopsAt s (f :: fs) := by
  intro k g x hg hans hx hctl
  cases k with
  | zero =>
    obtain rfl : f = g := Option.some.inj hg
    exact hfirst.trans (hx next)
  | succ k =>
    obtain ⟨⟨hok, hlen⟩, hans'⟩ := answersOk_replicate_succ hans f
    exact (hrest hok hlen).trans (h k g x hg hans' hx hctl)

/-- A program that is one transfer. -/
theorem stopsAt_spiTransfer (f : Frame) (next : Frame → Prog) : (spiTransfer f next).StopsAt s [f] := by
  intro k g x hg _ hx _
  cases k with
  | zero =>
    obtain rfl : f = g := Option.some.inj hg
    exact hx next
  | succ k => cases hg

end

section
variable {s : State} (ho : s.ctl.spi.isOpen = true)
include ho

/-- On an open transport and a range of the register map, the checks pass (R116, R117). -/
theorem run_checks {a n : Nat} (hrange : inRange a n = true) (q : Prog) :
    (requireSpi (requireRange a n q)).run s = q.run s :=
  (run_requireSpi _ ho).trans (run_requireRange _ hrange)

theorem stopsAt_writeReg_cons {a : Nat} {b : Byte} {next : Prog} {fs : List Frame} (ha : a ≤ 0x13)
    (h : next.StopsAt (s.transferred (writeFrame a b)) fs) :
    (writeReg a b next).StopsAt s (writeFrame a b :: fs) :=
  .cons h (run_checks ho (inRange_one.mpr ha) _) fun hok hlen => run_writeReg next ho ha hok hlen

theorem stopsAt_readReg_cons {a : Nat} {next : Byte → Prog} {fs : List Frame} (ha : a ≤ 0x13)
    (h : (next (s.byteRead 0 1 a)).StopsAt (s.transferred (readFrame a)) fs) :
    (readReg a next).StopsAt s (readFrame a :: fs) := by
  refine .cons h (run_checks ho (inRange_one.mpr ha) _) fun hok hlen => ?_
  rw [run_readReg next ho ha hok hlen, getD_response_readFrame ha hlen]

theorem stopsAt_readReg {a : Nat} (ha : a ≤ 0x13) (value : Byte → Value) :
    (readReg a fun r => .ret (value r)).StopsAt s [readFrame a] :=
  stopsAt_readReg_cons ho ha stopsAt_nil

theorem stopsAt_readModifyWrite (reg : Reg) (update : Byte → Byte) :
    (readModifyWrite reg update).StopsAt s (rmwFrames reg (update (s.byteRead 0 1 reg.addr))) := by
  have ha : reg.addr ≤ 0x13 := by cases reg <;> decide
  exact stopsAt_readReg_cons ho ha (stopsAt_writeReg_cons (by simpa using ho) ha stopsAt_nil)

theorem stopsAt_writeWord {first : Reg} (hf : first.addr + 2 ≤ 0x13) (w : Nat) :
    (writeWord first w).StopsAt s (wordFrames first w) :=
  stopsAt_writeReg_cons ho (by omega) <| stopsAt_writeReg_cons (by simpa using ho) (by omega) <|
    stopsAt_writeReg_cons (by simpa using ho) hf stopsAt_nil

theorem stopsAt_readWord {first : Reg} (hf : first.addr + 2 ≤ 0x13) (value : Nat → Value) :
    (readWord first fun w => .ret (value w)).StopsAt s (wordReads first) :=
  stopsAt_readReg_cons ho (by omega) <| stopsAt_readReg_cons (by simpa using ho) (by omega) <|
    stopsAt_readReg_cons (by simpa using ho) hf stopsAt_nil

theorem stopsAt_burstWrite {a : Nat} {bs : List Byte} (hne : bs ≠ []) (hrange : inRange a bs.length = true) :
    (progBurstWrite a bs).StopsAt s [burstWriteFrame a bs] := by
  refine (stopsAt_spiTransfer _ fun _ => .ret .unit).of_run ?_
  rw [progBurstWrite, if_neg hne, run_checks ho hrange]

theorem stopsAt_burstRead {a : Nat} {n : Int} (hpos : 0 < n) (hrange : inRange a n.toNat = true) :
    (progBurstRead a n).StopsAt s [burstReadFrame a n.toNat] := by
  refine (stopsAt_spiTransfer _ fun rx => .ret (.bytes rx.tail)).of_run ?_
  rw [progBurstRead, if_neg (by omega), run_checks ho hrange]

end

theorem stopsAt_writeTable {table : List Host.Cell} (htable : ∀ e ∈ table, e.1 ≤ 0x13) {s : State}
    (ho : s.ctl.spi.isOpen = true) : (writeTable table).StopsAt s (table.map fun e => writeFrame e.1 e.2) := by
  induction table generalizing s with
  | nil => exact stopsAt_nil
  | cons e table ih =>
    obtain ⟨ha, htable⟩ := List.forall_mem_cons.mp htable
    exact stopsAt_writeReg_cons ho ha (ih htable (by simpa using ho))

end Prog

/-! ### Operations -/

section
variable {s : State} {i : Instr} (h : Accepts s i)
include h

theorem stopsAt_readModifyWrite {reg : Reg} {update : Byte → Byte} (hctl : i.isController = true)
    (hframes : ∀ r, framesOf s.cfg.fxosc s.cfg.defaultTable r i = rmwFrames reg (update r)) :
    (requireReady (readModifyWrite reg update)).StopsAt s (s.patternOf i) := by
  rw [patternOf_rmw hframes]
  exact (Prog.stopsAt_readModifyWrite h.isOpen reg update).requireReady (h.ready hctl)

theorem stopsAt_writeMode (hctl : i.isController = true) (m : Byte) :
    (writeMode m).StopsAt s [writeFrame Reg.mode.addr m] :=
  (Prog.stopsAt_writeReg_cons h.isOpen (by decide) Prog.stopsAt_nil).requireReady (h.ready hctl)

theorem stopsAt_readReg (hctl : i.isController = true) {a : Nat} (ha : a ≤ 0x13) (value : Byte → Value) :
    (requireReady (readReg a fun r => .ret (value r))).StopsAt s [readFrame a] :=
  (Prog.stopsAt_readReg h.isOpen ha value).requireReady (h.ready hctl)

theorem stopsAt_setFrequency (hctl : i.isController = true) {first : Reg} (hf : first.addr + 2 ≤ 0x13)
    {f : Nat} (hvalid : validHz f = true) :
    (setFrequency s.cfg first f).StopsAt s (wordFrames first (tuningWord s.cfg.fxosc f)) := by
  refine Prog.StopsAt.of_run (Prog.StopsAt.requireReady ?_ (h.ready hctl)) (Prog.run_requireFxosc _ h.fxosc)
  rw [if_pos hvalid]
  exact Prog.stopsAt_writeWord h.isOpen hf _

theorem stopsAt_getFrequency (hctl : i.isController = true) {first : Reg} (hf : first.addr + 2 ≤ 0x13) :
    (getFrequency s.cfg first).StopsAt s (wordReads first) :=
  ((Prog.stopsAt_readWord h.isOpen hf fun w => .hz (wordHz s.cfg.fxosc w)).requireReady (h.ready hctl)).of_run
    (Prog.run_requireFxosc _ h.fxosc)

/-- The run of an accepted operation stops at the first transfer of its pattern that ends it. -/
theorem Accepts.stopsAt : (programOf s.cfg i).StopsAt s (s.patternOf i) := by
  have hoperands := h.operands
  cases i with
  | writeRegister a v => exact Prog.stopsAt_writeReg_cons h.isOpen (of_decide_eq_true hoperands) Prog.stopsAt_nil
  | readRegister a => exact Prog.stopsAt_readReg h.isOpen (of_decide_eq_true hoperands) .byte
  | burstWrite a vs =>
    simp only [operandsOk, Bool.and_eq_true, Bool.not_eq_true', List.isEmpty_eq_false_iff] at hoperands
    obtain ⟨hne, hrange⟩ := hoperands
    exact Prog.stopsAt_burstWrite h.isOpen hne hrange
  | burstRead a n =>
    simp only [operandsOk, Bool.and_eq_true, decide_eq_true_eq] at hoperands
    obtain ⟨hpos, hrange⟩ := hoperands
    exact Prog.stopsAt_burstRead h.isOpen hpos hrange
  | checkDevice => exact Prog.stopsAt_readReg h.isOpen (by decide) .byte
  | setRxFrequency f | setTxFrequency f => exact stopsAt_setFrequency h rfl (by decide) hoperands
  | getRxFrequency | getTxFrequency => exact stopsAt_getFrequency h rfl (by decide)
  | setLnaGain g | setPgaGain g | setDacGain g | setMixerGain g | enableRx on | enableTx on | enablePA on =>
    exact stopsAt_readModifyWrite h rfl fun _ => rfl
  | setMode m => exact stopsAt_writeMode h rfl m
  | setModeSleep | setModeStandby | setModeRx | setModeTx | setModeTxFull | setModeFullDuplex =>
    exact stopsAt_writeMode h rfl _
  | getMode | probe => exact stopsAt_readReg h rfl (by decide) .byte
  | getStatus => exact stopsAt_readReg h rfl (by decide) fun b => .status (decodeStatus b)
  | getVersion => exact stopsAt_readReg h rfl (by decide) fun b => .version (decodeVersion b)
  | initializeWithDefaults => exact (Prog.stopsAt_writeTable h.table h.isOpen).requireReady (h.ready rfl)
  | _ => exact Prog.stopsAt_nil

end

/-! ### A transfer that ends in an error -/

namespace State

@[simp] theorem sent_answerAt (s : State) (fs : List Frame) (k : Nat) :
    (s.sent fs).answerAt k = s.answerAt (k + fs.length) := by
  induction fs generalizing s with
  | nil => rfl
  | cons f fs ih => simp [ih, Nat.add_assoc]

/-- The state after a transfer that ended in an error, with no gap (R113, R124, R126). -/
def broken (s : State) (tx rx : Frame) (ok : Bool) : State :=
  { s.consume.awaitBus.emit s.nextStart (s.nextEnd tx) (.xfer tx rx) ok with
    lastEnd := some (s.nextEnd tx)
    device := s.device.forget s.nextStart tx }

section
variable (s : State) (tx rx : Frame) (ok : Bool)

@[simp] theorem broken_ctl : (s.broken tx rx ok).ctl = s.ctl := by simp [broken]
@[simp] theorem broken_alone : (s.broken tx rx ok).alone = s.alone := by simp [broken]
@[simp] theorem broken_now : (s.broken tx rx ok).now = s.nextEnd tx := by simp [broken]
@[simp] theorem broken_lastEnd : (s.broken tx rx ok).lastEnd = some (s.nextEnd tx) := rfl
@[simp] theorem broken_device : (s.broken tx rx ok).device = s.device.forget s.nextStart tx := rfl

@[simp] theorem broken_trace :
    (s.broken tx rx ok).trace = (s.consume.awaitBus.emit s.nextStart (s.nextEnd tx) (.xfer tx rx) ok).trace := rfl

@[simp] theorem broken_frames : (s.broken tx rx ok).frames = s.frames ++ [tx] := by
  simp [frames_congr (s.broken_trace tx rx ok), Event.frame?]

@[simp] theorem broken_sideEvents : (s.broken tx rx ok).sideEvents = s.sideEvents := by
  simp [sideEvents_congr (s.broken_trace tx rx ok), Event.isSide]

end

end State

theorem sameLines_broken (s : State) (tx rx : Frame) (ok : Bool) : SameLines s (s.broken tx rx ok) := by
  constructor <;> simp

/-- The state in which an operation's transfer number `k` begins, where those before it went through. -/
def State.atFrame (s : State) (i : Instr) (k : Nat) : State := (s.entered i).sent ((s.patternOf i).take k)

section
variable {s : State} {i : Instr} {k : Nat} {f : Frame} (hf : (s.patternOf i)[k]? = some f)
include hf

theorem answer_atFrame : (s.atFrame i k).answer = s.answerAt k := by
  obtain ⟨hk, -⟩ := List.getElem?_eq_some_iff.mp hf
  have hlen : ((s.patternOf i).take k).length = k := List.length_take_of_le hk.le
  rw [← State.answerAt_zero, State.atFrame, State.sent_answerAt, answerAt_entered, hlen, Nat.zero_add]

/-- An accepted operation with a transfer that ends in an error, after others that went through. -/
theorem exec_breaks (haccepts : s.acceptsRegisterOp i = true) (hans : s.answersOk (List.replicate k 2) = true)
    {e : Error} {rx : Frame} {ok : Bool} (he : e.kind ≠ .invalidState)
    (hx : ∀ next, (spiTransfer f next).run (s.atFrame i k) = .done (.err e) ((s.atFrame i k).broken f rx ok)) :
    ∃ t, exec i s = .next t ∧ Returned s t ((s.patternOf i).take (k + 1)) [] (.err e) ∧ SameParts s t ∧
      SameLines s t ∧ t.lastEnd = some t.now ∧
      t.device = (s.atFrame i k).device.forget (s.atFrame i k).nextStart f := by
  obtain ⟨hfree, hentered⟩ := accepts_entered haccepts
  have hpattern : (s.entered i).patternOf i = s.patternOf i :=
    patternOf_congr (cfg_entered s i) (byteRead_entered s i) i
  have hrun : (programOf s.cfg i).run (s.entered i) = .done (.err e) ((s.atFrame i k).broken f rx ok) := by
    have hstops := hentered.stopsAt
    rw [cfg_entered, hpattern] at hstops
    exact hstops k f _ hf (by rwa [answersOk_entered]) hx (by simp [he])
  refine ⟨_, exec_of_run hfree hrun, returned_of_exec hfree hrun ?_ ?_, sameParts_afterCall _ ?_ ?_, ?_, ?_, ?_⟩
  · simp [State.atFrame, List.take_add_one, hf]
  · simp [State.atFrame]
  · simp [State.atFrame]
  · simp [State.atFrame]
  · have hentry : SameLines s (s.entered i) := .of_device (s.entered_device i)
    have hsent : SameLines (s.entered i) (s.atFrame i k) := sameLines_sent _ _
    exact ((hentry.trans hsent).trans (sameLines_broken _ f rx ok)).trans (.of_device (by simp))
  · simp
  · simp

end

/-! ### The two errors of a transfer (R124, R126) -/

/-- What a frame of unknown effect leaves of its registers (R124, R248). -/
theorem Device.read_forget_targets {d : Device} {t : Nat} {b : Byte} {ds : List Byte} {a : Nat}
    (hlow : frameAddr b ≤ a) (hhigh : a < frameAddr b + ds.length) :
    Memory.read a (d.forget t (b :: ds)).regs = none := by
  rcases d.forget_cases t (b :: ds) with ⟨-, hforget⟩ | ⟨-, hforget⟩ <;> rw [hforget]
  · rfl
  · exact (Memory.read_forgetRun _ _ _ _).trans (if_pos ⟨hlow, hhigh⟩)

/-- Every frame of a pattern has its address byte (R89, R108). -/
theorem nil_notMem_framesOf (fxosc : Nat) (table : List Host.Cell) (r : Byte) (i : Instr) :
    [] ∉ framesOf fxosc table r i := by
  cases i <;>
    simp [framesOf, writeFrame, readFrame, burstWriteFrame, burstReadFrame, wordFrames, wordReads, rmwFrames]

/-- Settles O20: the run stops at the failed transfer, which forgets the frame's registers. -/
theorem failedFrameEndsOperation : Obligations.FailedFrameEndsOperation := by
  intro i s k haccepts hk hans hfailed
  have hne : (s.patternOf i)[k] ≠ [] := fun hnil =>
    nil_notMem_framesOf _ _ _ i (hnil ▸ List.getElem_mem hk)
  obtain ⟨b, ds, hcons⟩ := List.exists_cons_of_ne_nil hne
  have hf : (s.patternOf i)[k]? = some (b :: ds) := hcons ▸ List.getElem?_eq_getElem hk
  obtain ⟨t, hexec, hreturned, hparts, hlines, hend, hdevice⟩ := exec_breaks hf haccepts hans (by simp)
    fun next => Prog.run_spiTransfer_failed next ((answer_atFrame hf).symm ▸ hfailed)
  refine ⟨t, b, ds, hexec, hreturned, hparts, hlines, hend, hf, fun a hlow hhigh => ?_⟩
  rw [hdevice]
  exact Device.read_forget_targets hlow hhigh

/-- Settles O21: the run stops at the transfer whose response has another length. -/
theorem mismatchedResponse : Obligations.MismatchedResponse := by
  intro i s k f haccepts hf hans hok hlen
  have hanswer := answer_atFrame hf
  obtain ⟨t, hexec, hreturned, hparts, hlines, hend, -⟩ := exec_breaks hf haccepts hans (by simp)
    fun next => Prog.run_spiTransfer_mismatch next (hanswer.symm ▸ hok) (hanswer.symm ▸ hlen)
  exact ⟨t, hexec, hreturned, hparts, hlines, hend⟩

end Sys2Proof.Machine
end

section
/-! The line sequencer's shared steps as updates of the state, and the calls they make up: what an operation runs, which
components it leaves, and what each step puts on the trace and does to the wired lines (R133 to R142, R218). -/

namespace Sys2Proof.Machine

/-! ### The components of an operation (R66, R67, R212) -/

section
variable (s : State) (i : Instr)

@[simp] theorem State.entered_gpio : (s.entered i).ctl.gpio = s.gpioFor i := by
  cases hi : i.isController <;> simp [State.entered, State.gpioFor, hi]

@[simp] theorem State.entered_phase : (s.entered i).ctl.phase = s.ctl.phase := by
  cases hi : i.isController <;> simp [State.entered, hi]

end

/-- A run that leaves its components as they were but for the sequencer. -/
theorem onlyGpio_afterCall {s t : State} {i : Instr} {g : Gpio} (r : Result)
    (hctl : t.ctl = { (s.entered i).ctl with gpio := g }) (halone : t.alone = (s.entered i).alone) :
    OnlyGpio i s (t.afterCall i r) g := by
  cases hi : i.isController with
  | false =>
    rw [OnlyGpio, if_neg (by simp [hi]), t.afterCall_ctl i r hi, t.afterCall_alone i r hi, hctl, halone,
      s.entered_ctl hi, s.entered_alone hi]
    exact ⟨rfl, rfl⟩
  | true =>
    rw [OnlyGpio, if_pos hi]
    simp [State.afterCall, State.entered, hi, hctl, halone]

/-- The operation runs this program, on the components used alone, or after the phase check on the controller's own
(R66, R185). -/
structure Runs (s : State) (i : Instr) (q : Prog) : Prop where
  ready : i.isController = true → s.ctl.phase = .ready
  program : programOf s.cfg i = if i.isController then requireReady q else q

/-- The phase check passes, and an error other than `InvalidState` is the operation's own (R220). -/
theorem Runs.run {s t : State} {i : Instr} {q : Prog} {r : Result} (h : Runs s i q)
    (hq : q.run (s.entered i) = .done r t) (hr : r.inController = r) :
    (programOf s.cfg i).run (s.entered i) = .done r t := by
  rw [h.program]
  split
  · next hi => rw [Prog.run_requireReady q (by rw [s.entered_phase, h.ready hi]), hq, Ran.inController_done, hr]
  · exact hq

/-! ### What the steps of a sequencer leave alone -/

/-- From `s` to `t` the sequencer has put the given events on the trace and used up some answers: there has been no
transfer, and nothing outside the current components, the device and the time has changed. -/
structure Acted (s t : State) (side : List (Event × Bool)) (asked : Nat) : Prop where
  cfg : t.cfg = s.cfg
  alone : t.alone = s.alone
  parked : t.parked = s.parked
  lastEnd : t.lastEnd = s.lastEnd
  frames : t.frames = s.frames
  sideEvents : t.sideEvents = s.sideEvents ++ side
  answers : ∀ k, t.answerAt k = s.answerAt (k + asked)

namespace Acted

variable {s t u : State} {side side' : List (Event × Bool)} {n n' : Nat}

theorem refl (s : State) : Acted s s [] 0 := ⟨rfl, rfl, rfl, rfl, rfl, by simp, fun _ => rfl⟩

theorem trans (h : Acted s t side n) (h' : Acted t u side' n') : Acted s u (side ++ side') (n' + n) where
  cfg := h'.cfg.trans h.cfg
  alone := h'.alone.trans h.alone
  parked := h'.parked.trans h.parked
  lastEnd := h'.lastEnd.trans h.lastEnd
  frames := h'.frames.trans h.frames
  sideEvents := by rw [h'.sideEvents, h.sideEvents, List.append_assoc]
  answers k := by rw [h'.answers, h.answers, Nat.add_assoc]

theorem answer (h : Acted s t side n) : t.answer = s.answerAt n := by
  rw [← State.answerAt_zero, h.answers, Nat.zero_add]

theorem attempted (s : State) {ev : Event} (ok : Bool) (hev : ev.isSide = true) :
    Acted s (s.attempted ev ok) [(ev, ok)] 1 :=
  ⟨rfl, rfl, rfl, rfl, by simp [frame?_of_isSide hev], by simp [hev], fun _ => by simp⟩

/-- A level on a line is no event. -/
theorem wire (h : Acted s t side n) (l : Nat) (f : Device → Device) (b : Bool) :
    Acted s (t.wire l f b) side n :=
  ⟨by simp [h.cfg], by simp [h.alone], by simp [h.parked], by simp [h.lastEnd], by simp [h.frames],
   by simp [h.sideEvents], by simp [h.answers]⟩

/-- Neither is an assignment. -/
theorem assign (h : Acted s t side n) (c : Controller) : Acted s { t with ctl := c } side n :=
  ⟨h.cfg, h.alone, h.parked, h.lastEnd, h.frames, h.sideEvents, h.answers⟩

/-- An event that asks nothing of the platform. -/
theorem emit (h : Acted s t side n) (a b : Nat) {ev : Event} (ok : Bool) (hev : ev.isSide = true) :
    Acted s (t.emit a b ev ok) (side ++ [(ev, ok)]) n :=
  ⟨h.cfg, h.alone, h.parked, h.lastEnd, by simp [h.frames, frame?_of_isSide hev], by simp [h.sideEvents, hev],
   h.answers⟩

end Acted

/-- A call of the sequencer, from what its run has done. -/
theorem exec_acted {s t : State} {i : Instr} {q : Prog} {r : Result} {side : List (Event × Bool)} {n : Nat}
    (hfree : s.lockFree = true) (hruns : Runs s i q) (hq : q.run (s.entered i) = .done r t)
    (hr : r.inController = r) (h : Acted (s.entered i) t side n) :
    exec i s = .next (t.afterCall i r) ∧ Returned s (t.afterCall i r) [] side r ∧
      (t.afterCall i r).lastEnd = s.lastEnd :=
  have hrun := hruns.run hq hr
  ⟨exec_of_run hfree hrun, returned_of_exec hfree hrun (by simp [h.frames]) (by simp [h.sideEvents]),
   by simp [h.lastEnd]⟩

/-! ### The device's reset line -/

namespace Device

variable (d : Device) (defaults : List Host.Cell) (t : Nat)

/-- The block holds the device in reset while it drives the line high (R141). -/
@[simp] theorem moveReset_held (l : Bool) : (d.moveReset defaults t l).held = l := by
  cases hheld : d.held <;> cases l <;> simp [moveReset, hheld]

/-- A write of the level that is driven already is no edge, and moves no register. -/
theorem moveReset_regs {l : Bool} (h : d.held = l) : (d.moveReset defaults t l).regs = d.regs := by
  subst h
  cases hheld : d.held <;> simp [moveReset, hheld]

theorem moveReset_rose_of_low (h : d.held = false) : (d.moveReset defaults t true).rose = some t := by
  simp [moveReset, h]

@[simp] theorem moveReset_low_rose : (d.moveReset defaults t false).rose = d.rose := by
  cases hheld : d.held <;> simp [moveReset, hheld]

theorem moveReset_fell_of_high (h : d.held = true) : (d.moveReset defaults t false).fell = some t := by
  simp [moveReset, h]

/-- A released line found low after it was high has fallen (R248). -/
theorem float_fell_of_high (h : d.resetPin = true) : (d.float t false).fell = some t := by simp [float, h]

/-- The settle time after a fall of the reset line ends the hazard (R246, R248). -/
theorem hazard_settled {d : Device} {t f : Nat} (hpin : d.resetPin = false) (hheld : d.held = false)
    (hfell : d.fell = some f) (hsettled : f + settleNanos ≤ t) : d.hazard t = false := by
  simp [hazard, hpin, hheld, hfell, hsettled]

end Device

/-! ### The wired lines -/

theorem Gpio.isWired_iff {g : Gpio} {cfg : Config} : g.isWired cfg = true ↔
    g.chip = cfg.gpioChip ∧ g.resetLine = cfg.resetLine ∧ g.txrxLine = cfg.txrxLine ∧
      cfg.resetLine ≠ cfg.txrxLine := by
  simp only [Gpio.isWired, Bool.and_eq_true, decide_eq_true_eq, and_assoc]

namespace State

section
variable {s : State} (f : Device → Device) (b : Bool)

/-- A level on a line moves a register only where it does so at the reset pin. -/
theorem wire_regs {f : Device → Device} (hf : (f s.device).regs = s.device.regs) (l : Nat) :
    (s.wire l f b).device.regs = s.device.regs := by
  rcases s.wire_device l f b with e | e | e <;> rw [e]
  exact hf

theorem wire_regs_of_ne {l : Nat} (hl : l ≠ s.cfg.resetLine) : (s.wire l f b).device.regs = s.device.regs := by
  unfold wire
  rw [if_neg hl]
  split_ifs <;> rfl

theorem wire_wired_reset (h : s.ctl.gpio.isWired s.cfg = true) :
    (s.wire s.ctl.gpio.resetLine f b).device = f s.device := by
  obtain ⟨hchip, hreset, -, -⟩ := Gpio.isWired_iff.mp h
  rw [hreset, wire_resetLine f b hchip]

theorem wire_wired_txrx (h : s.ctl.gpio.isWired s.cfg = true) :
    (s.wire s.ctl.gpio.txrxLine f b).device = { s.device with txrxPin := b } := by
  obtain ⟨hchip, -, htxrx, hne⟩ := Gpio.isWired_iff.mp h
  rw [htxrx, wire_txrxLine f b hchip hne.symm]

end

end State

/-! ### A line write that goes through (R135, R136, R138) -/

/-- The sequencer with another level on one of its lines (R29, R30). -/
def Gpio.drive (g : Gpio) : Pin → Bool → Gpio
  | .reset, b => { g with reset := b }
  | .txrx, b => { g with txrx := b }

theorem Write.apply_gpioLevel (c : Controller) (pin : Pin) (b : Bool) :
    Write.apply c (.gpioLevel pin b) = { c with gpio := c.gpio.drive pin b } := by cases pin <;> rfl

namespace State

/-- The state after a line write that went through, with its assignment. -/
def lineDriven (s : State) (pin : Pin) (b : Bool) : State :=
  { (s.attempted (.lineSet (s.ctl.gpio.line pin) b) true).moveLine (s.ctl.gpio.line pin) b with
    ctl := { s.ctl with gpio := s.ctl.gpio.drive pin b } }

section
variable (s : State) (pin : Pin) (b : Bool)

@[simp] theorem lineDriven_ctl :
    (s.lineDriven pin b).ctl = { s.ctl with gpio := s.ctl.gpio.drive pin b } := rfl

@[simp] theorem lineDriven_cfg : (s.lineDriven pin b).cfg = s.cfg := by simp [lineDriven]

@[simp] theorem lineDriven_now : (s.lineDriven pin b).now = s.attemptEnd := by simp [lineDriven]

theorem acted_lineDriven :
    Acted s (s.lineDriven pin b) [(.lineSet (s.ctl.gpio.line pin) b, true)] 1 :=
  ((Acted.attempted s true rfl).wire _ _ b).assign _

/-- A write of the level that the device's reset line is driven to already moves no register. -/
theorem lineDriven_regs (h : s.device.held = b) : (s.lineDriven pin b).device.regs = s.device.regs :=
  wire_regs (s := s.attempted _ true) b (s.device.moveReset_regs _ _ h) _

/-- Neither does a write of another line than the device's reset line (R44). -/
theorem lineDriven_regs_of_ne (h : s.ctl.gpio.line pin ≠ s.cfg.resetLine) :
    (s.lineDriven pin b).device.regs = s.device.regs :=
  wire_regs_of_ne (s := s.attempted _ true) _ b h

variable {s} (h : s.ctl.gpio.isWired s.cfg = true)
include h

theorem lineDriven_reset_wired : (s.lineDriven .reset b).device =
    s.device.moveReset s.cfg.regDefaults s.attemptEnd b :=
  wire_wired_reset (s := s.attempted _ true) _ b h

theorem lineDriven_txrx_wired : (s.lineDriven .txrx b).device = { s.device with txrxPin := b } :=
  wire_wired_txrx (s := s.attempted _ true) _ b h

end

end State

/-- A line operation is its line's write, and returns (R136, R138). -/
theorem Prog.run_lineDriven {s : State} {pin : Pin} {b : Bool} (next : Nat → Prog)
    (ho : s.ctl.gpio.isOpen = true) (h : s.answer.status = .ok) :
    (requireGpio (driveLine pin b next)).run s = (next s.answer.after).run (s.lineDriven pin b) := by
  rw [run_requireGpio _ ho, run_driveLine next ho h, Write.apply_gpioLevel]
  rfl

/-! ### A line write that fails (R218; assumption 21) -/

namespace State

/-- The state after a line write that failed: the platform has left the line at some level. -/
def lineFailed (s : State) (pin : Pin) (b : Bool) : State :=
  (s.attempted (.lineSet (s.ctl.gpio.line pin) b) false).moveLine (s.ctl.gpio.line pin) s.answer.level

section
variable (s : State) (pin : Pin) (b : Bool)

@[simp] theorem lineFailed_ctl : (s.lineFailed pin b).ctl = s.ctl := by simp [lineFailed]

theorem acted_lineFailed : Acted s (s.lineFailed pin b) [(.lineSet (s.ctl.gpio.line pin) b, false)] 1 := by
  unfold lineFailed
  exact (Acted.attempted s false rfl).wire _ _ _

end

end State

/-! ### Calls of one line write or read -/

section
variable {s : State} {i : Instr} {pin : Pin} (hfree : s.lockFree = true) (hopen : (s.gpioFor i).isOpen = true)
include hfree hopen

theorem exec_driveLine {b : Bool} (hruns : Runs s i (requireGpio (driveLine pin b fun _ => .ret .unit)))
    (hok : s.answer.status = .ok) :
    ∃ t, exec i s = .next t ∧ Returned s t [] [(.lineSet ((s.gpioFor i).line pin) b, true)] (.ok .unit) ∧
      OnlyGpio i s t ((s.gpioFor i).drive pin b) ∧ t.lastEnd = s.lastEnd ∧
      t.device = ((s.entered i).lineDriven pin b).device := by
  have hrun := Prog.run_lineDriven (s := s.entered i) (pin := pin) (b := b) (fun _ => .ret .unit)
    (by rwa [s.entered_gpio]) (by rwa [s.entered_answer])
  have hacted := (s.entered i).acted_lineDriven pin b
  have hparts := onlyGpio_afterCall (s := s) (.ok .unit) ((s.entered i).lineDriven_ctl pin b) hacted.alone
  rw [s.entered_gpio] at hacted hparts
  obtain ⟨hexec, hreturned, hend⟩ := exec_acted hfree hruns hrun rfl hacted
  exact ⟨_, hexec, hreturned, hparts, hend, State.afterCall_device _ _ _⟩

/-- A line write that fails leaves the driven levels as they were (R218, R225; assumption 21). -/
theorem exec_driveLine_failed {b : Bool} {next : Nat → Prog} (hruns : Runs s i (requireGpio (driveLine pin b next)))
    (hfailed : s.answer.status = .failed) :
    ∃ t, exec i s = .next t ∧
      Returned s t [] [(.lineSet ((s.gpioFor i).line pin) b, false)] (.err ⟨.transportFailure, .lineError, []⟩) ∧
      SameParts s t := by
  have ho : (s.entered i).ctl.gpio.isOpen = true := by rwa [s.entered_gpio]
  have hrun : (requireGpio (driveLine pin b next)).run (s.entered i) =
      .done (.err ⟨.transportFailure, .lineError, []⟩) ((s.entered i).lineFailed pin b) :=
    (Prog.run_requireGpio _ ho).trans (Prog.run_driveLine_failed next ho (by rwa [s.entered_answer]))
  have hacted := (s.entered i).acted_lineFailed pin b
  have hparts := sameParts_afterCall (.err ⟨.transportFailure, .lineError, []⟩)
    ((s.entered i).lineFailed_ctl pin b) hacted.alone
  rw [s.entered_gpio] at hacted
  obtain ⟨hexec, hreturned, -⟩ := exec_acted hfree hruns hrun rfl hacted
  exact ⟨_, hexec, hreturned, hparts⟩

/-- A line read is no event and takes time only (R137, R139, R218). -/
theorem exec_lineRead {r : Result} (hruns : Runs s i (requireGpio (readLine pin))) (hr : r.inController = r)
    (hread : (readLine pin).run (s.entered i)
      = .done r { (s.entered i).consume with now := (s.entered i).attemptEnd }) :
    ∃ t, exec i s = .next t ∧ Returned s t [] [] r ∧ SameParts s t ∧ t.device = s.device ∧ t.lastEnd = s.lastEnd := by
  have hrun := (Prog.run_requireGpio _ (by rwa [s.entered_gpio])).trans hread
  have hacted : Acted (s.entered i) { (s.entered i).consume with now := (s.entered i).attemptEnd } [] 1 :=
    ⟨rfl, rfl, rfl, rfl, rfl, (List.append_nil _).symm, fun k => (s.entered i).answerAt_consume k⟩
  obtain ⟨hexec, hreturned, hend⟩ := exec_acted hfree hruns hrun hr hacted
  exact ⟨_, hexec, hreturned, sameParts_afterCall _ rfl rfl, by simp, hend⟩

end

/-- Settles O28: the reset line's write is `exec_driveLine` on its line, the TX/RX line's the same on the other, used
alone or after the phase check. -/
theorem pinWritesComplete : Obligations.PinWritesComplete := by
  refine fun s b hfree hok => ⟨fun hopen => ?_, fun i hi hopen => ?_⟩
  · obtain ⟨t, hexec, hreturned, hparts, hend, hdevice⟩ :=
      exec_driveLine (i := .setResetPin b) hfree hopen ⟨nofun, rfl⟩ hok
    refine ⟨t, hexec, hreturned, hparts, hend, fun hheld => ?_, fun hwired => ?_⟩
    · rw [hdevice, State.lineDriven_regs _ _ _ (by rwa [s.entered_device]), s.entered_device]
    · rw [hdevice, State.lineDriven_reset_wired _ (by rwa [s.entered_gpio, cfg_entered]), s.entered_device]
      simp
  · have hruns : Runs s i (requireGpio (driveLine .txrx b fun _ => .ret .unit)) := by
      rcases hi with rfl | ⟨rfl, hready⟩
      · exact ⟨nofun, rfl⟩
      · exact ⟨fun _ => hready, rfl⟩
    obtain ⟨t, hexec, hreturned, hparts, hend, hdevice⟩ := exec_driveLine hfree hopen hruns hok
    refine ⟨t, hexec, hreturned, hparts, hend, fun hne => ?_, fun hwired => ?_⟩
    · rw [hdevice, State.lineDriven_regs_of_ne _ _ _ (by rwa [s.entered_gpio, cfg_entered]), s.entered_device]
    · rw [hdevice, State.lineDriven_txrx_wired _ (by rwa [s.entered_gpio, cfg_entered]), s.entered_device]

/-- Settles O29: each of the three reads gives its line's driven level. -/
theorem pinReadsComplete : Obligations.PinReadsComplete := by
  intro s i level hfree hopen hok hi
  have read : ∀ pin, Runs s i (requireGpio (readLine pin)) → level = (s.gpioFor i).level pin →
      ∃ t, exec i s = .next t ∧ Returned s t [] [] (.ok (.level level)) ∧ SameParts s t ∧
        t.device = s.device ∧ t.lastEnd = s.lastEnd := by
    rintro pin hruns rfl
    have hread := Prog.run_readLine (s := s.entered i) (pin := pin) (by rwa [s.entered_gpio])
      (by rwa [s.entered_answer])
    rw [s.entered_gpio] at hread
    exact exec_lineRead hfree hopen hruns rfl hread
  rcases hi with ⟨rfl, rfl⟩ | ⟨rfl, rfl⟩ | ⟨rfl, hready, rfl⟩
  · exact read .reset ⟨nofun, rfl⟩ rfl
  · exact read .txrx ⟨nofun, rfl⟩ rfl
  · exact read .txrx ⟨fun _ => hready, rfl⟩ rfl

/-- Settles O25: the open check is the first step of all five. -/
theorem gpioNotOpenRejected : Obligations.GpioNotOpenRejected := by
  intro s b hfree hclosed i hi
  have rejects : ∀ {i : Instr} {q : Prog}, i.isController = false → programOf s.cfg i = requireGpio q →
      exec i s = .next (s.rejected .invalidState .gpioNotOpen) := by
    intro i q hctl hprog
    refine exec_of_run_unchanged hfree hctl ?_
    rw [hprog, Prog.run_requireGpio_not _ (by rw [s.entered_gpio, State.gpioFor, hctl]; exact hclosed)]
  simp only [List.mem_cons, List.not_mem_nil, or_false] at hi
  rcases hi with rfl | rfl | rfl | rfl | rfl <;> exact rejects rfl rfl

end Sys2Proof.Machine
end

section
/-! The reset pulse (R135, R204, R246, R247), and the failures of the lines (R218, R225). -/

namespace Sys2Proof.Machine

/-! ### The pulse -/

namespace State

/-- The state after a wait of at least `t` (R142, R244). -/
def waited (s : State) (t slack : Nat) : State := s.emit s.now (s.now + t + slack) (.hold t) true

theorem acted_waited (s : State) (t slack : Nat) : Acted s (s.waited t slack) [(.hold t, true)] 0 :=
  (Acted.refl s).emit _ _ true rfl

/-- The state after the first half of a reset pulse: the line is high, and has been for 100 µs. -/
def pulseHigh (s : State) : State := (s.lineDriven .reset true).waited pulseNanos s.answer.after

/-- The state after a reset pulse and its settle time. -/
def pulsed (s : State) : State :=
  (s.pulseHigh.lineDriven .reset false).waited settleNanos s.pulseHigh.answer.after

section
variable (s : State)

@[simp] theorem pulseHigh_cfg : s.pulseHigh.cfg = s.cfg := by simp [pulseHigh, waited]

@[simp] theorem pulseHigh_ctl : s.pulseHigh.ctl = { s.ctl with gpio := { s.ctl.gpio with reset := true } } := rfl

@[simp] theorem pulsed_ctl : s.pulsed.ctl = { s.ctl with gpio := { s.ctl.gpio with reset := false } } := rfl

theorem pulseHigh_now : s.pulseHigh.now = s.attemptEnd + pulseNanos + s.answer.after := by
  simp [pulseHigh, waited]

theorem pulsed_now :
    s.pulsed.now = s.pulseHigh.attemptEnd + settleNanos + s.pulseHigh.answer.after := by simp [pulsed, waited]

theorem acted_pulseHigh : Acted s s.pulseHigh
    [(.lineSet s.ctl.gpio.resetLine true, true), (.hold pulseNanos, true)] 1 :=
  (s.acted_lineDriven .reset true).trans (acted_waited _ _ _)

theorem acted_pulsed : Acted s s.pulsed
    [(.lineSet s.ctl.gpio.resetLine true, true), (.hold pulseNanos, true),
     (.lineSet s.ctl.gpio.resetLine false, true), (.hold settleNanos, true)] 2 :=
  s.acted_pulseHigh.trans ((s.pulseHigh.acted_lineDriven .reset false).trans (acted_waited _ _ _))

/-- The line is high for 100 µs and then low for 5 ms at least (R246, R247). -/
theorem pulse_times : s.now ≤ s.attemptEnd ∧ s.attemptEnd + pulseNanos ≤ s.pulseHigh.attemptEnd ∧
    s.pulseHigh.attemptEnd + settleNanos ≤ s.pulsed.now := by
  have hfall := s.pulseHigh.le_attemptEnd
  rw [pulseHigh_now] at hfall
  rw [pulsed_now]
  exact ⟨s.le_attemptEnd, by omega, by omega⟩

variable {s} (h : s.ctl.gpio.isWired s.cfg = true)
include h

theorem pulseHigh_device : s.pulseHigh.device = s.device.moveReset s.cfg.regDefaults s.attemptEnd true :=
  lineDriven_reset_wired true h

theorem pulsed_device : s.pulsed.device =
    (s.device.moveReset s.cfg.regDefaults s.attemptEnd true).moveReset s.cfg.regDefaults
      s.pulseHigh.attemptEnd false := by
  rw [← pulseHigh_device h, ← pulseHigh_cfg]
  exact lineDriven_reset_wired (s := s.pulseHigh) false (by rw [pulseHigh_cfg]; exact h)

end

end State

/-- A pulse whose first write goes through comes to its second write (R135). -/
theorem Prog.run_pulseReset {s : State} (ho : s.ctl.gpio.isOpen = true) (h : s.answer.status = .ok) :
    pulseReset.run s = (driveLine .reset false fun slack => .act (.hold settleNanos slack) fun _ => .ret .unit).run
      s.pulseHigh := by
  rw [pulseReset, run_lineDriven _ ho h, run_hold]
  rfl

/-- A pulse whose two writes go through (R135). -/
theorem Prog.run_pulseReset_ok {s : State} (ho : s.ctl.gpio.isOpen = true) (h : s.answersSucceed 2 = true) :
    pulseReset.run s = .done (.ok .unit) s.pulsed := by
  rw [State.answersSucceed_iff] at h
  rw [run_pulseReset ho (by simpa using h 0 (by decide)),
    ← run_requireGpio (s := s.pulseHigh) _ (by rw [State.pulseHigh_ctl]; exact ho),
    run_lineDriven _ (by rw [State.pulseHigh_ctl]; exact ho) (by rw [s.acted_pulseHigh.answer]; exact h 1 (by decide)),
    run_hold]
  rfl

/-- The two operations that pulse the reset line (R135, R204). -/
theorem runs_pulseReset {s : State} {i : Instr} (hi : i = .reset ∨ (i = .resetDevice ∧ s.ctl.phase = .ready)) :
    Runs s i pulseReset := by
  rcases hi with rfl | ⟨rfl, hready⟩
  · exact ⟨nofun, rfl⟩
  · exact ⟨fun _ => hready, rfl⟩

theorem answersSucceed_entered (s : State) (i : Instr) (n : Nat) :
    (s.entered i).answersSucceed n = s.answersSucceed n := by
  simp only [State.answersSucceed, answerAt_entered]

/-- Settles O26: the pulse rises at the first write's end and falls at the second's, with a wait after each. -/
theorem resetPulse : Obligations.ResetPulse := by
  intro s i hfree hi hopen hans
  have hrun := Prog.run_pulseReset_ok (s := s.entered i) (by rwa [s.entered_gpio]) (by rwa [answersSucceed_entered])
  have hacted := (s.entered i).acted_pulsed
  have hparts := onlyGpio_afterCall (s := s) (.ok .unit) (s.entered i).pulsed_ctl hacted.alone
  rw [s.entered_gpio] at hacted hparts
  obtain ⟨hexec, hreturned, hend⟩ := exec_acted hfree (runs_pulseReset hi) hrun rfl hacted
  obtain ⟨hrise, hhigh, hlow⟩ := (s.entered i).pulse_times
  rw [s.entered_now] at hrise
  refine ⟨_, hexec, hreturned, hparts, hend, ?_, fun hwired => ?_⟩
  · rw [State.afterCall_now]
    simp only [pulseNanos, settleNanos] at hhigh hlow
    omega
  · have hdevice := State.pulsed_device (s := s.entered i) (by rwa [s.entered_gpio, cfg_entered])
    rw [State.afterCall_device, State.afterCall_now, hdevice, s.entered_device]
    have hfell := Device.moveReset_fell_of_high
      (s.device.moveReset (s.entered i).cfg.regDefaults (s.entered i).attemptEnd true)
      (s.entered i).cfg.regDefaults (s.entered i).pulseHigh.attemptEnd (Device.moveReset_held _ _ _ true)
    refine ⟨by simp, by simp, by simp, Device.hazard_settled (by simp) (by simp) hfell hlow,
      _, hfell, hlow, fun hlow₀ => ⟨_, ?_, hrise, hhigh⟩⟩
    rw [Device.moveReset_low_rose, Device.moveReset_rose_of_low _ _ _ hlow₀]

/-! ### Failures -/

/-- A pulse whose second write fails leaves the line driven high (R135, R225; assumption 21). -/
theorem exec_pulseReset_failed {s : State} {i : Instr} (hfree : s.lockFree = true) (hruns : Runs s i pulseReset)
    (hopen : (s.gpioFor i).isOpen = true) (hok : s.answer.status = .ok) (hfailed : (s.answerAt 1).status = .failed) :
    ∃ t, exec i s = .next t ∧
      Returned s t [] [(.lineSet (s.gpioFor i).resetLine true, true), (.hold 100000, true),
        (.lineSet (s.gpioFor i).resetLine false, false)] (.err ⟨.transportFailure, .lineError, []⟩) ∧
      OnlyGpio i s t { s.gpioFor i with reset := true } := by
  have ho : (s.entered i).ctl.gpio.isOpen = true := by rwa [s.entered_gpio]
  have hrun : pulseReset.run (s.entered i) = .done (.err ⟨.transportFailure, .lineError, []⟩)
      ((s.entered i).pulseHigh.lineFailed .reset false) :=
    (Prog.run_pulseReset ho (by rwa [s.entered_answer])).trans (Prog.run_driveLine_failed _
      (by rw [State.pulseHigh_ctl]; exact ho) (by rwa [(s.entered i).acted_pulseHigh.answer, answerAt_entered]))
  have hctl := ((s.entered i).pulseHigh.lineFailed_ctl .reset false).trans (s.entered i).pulseHigh_ctl
  have hacted := (s.entered i).acted_pulseHigh.trans ((s.entered i).pulseHigh.acted_lineFailed .reset false)
  have hparts := onlyGpio_afterCall (.err ⟨.transportFailure, .lineError, []⟩) hctl hacted.alone
  rw [State.pulseHigh_ctl] at hacted
  rw [s.entered_gpio] at hacted hparts
  obtain ⟨hexec, hreturned, -⟩ := exec_acted hfree hruns hrun rfl hacted
  exact ⟨_, hexec, hreturned, hparts⟩

/-- Settles O30: every line operation comes to its first write or its read, and the pulse to its second. -/
theorem lineFailures : Obligations.LineFailures := by
  refine fun s b hfree => ⟨fun hfailed => ⟨fun i l lvl hi hopen hready => ?_, fun i hi hopen hready => ?_⟩,
    fun hok hfailed i hi hopen => exec_pulseReset_failed hfree (runs_pulseReset hi) hopen hok hfailed⟩
  · simp only [List.mem_cons, List.not_mem_nil, or_false, Prod.mk.injEq] at hi
    rcases hi with ⟨rfl, rfl, rfl⟩ | ⟨rfl, rfl, rfl⟩ | ⟨rfl, rfl, rfl⟩ | ⟨rfl, rfl, rfl⟩ | ⟨rfl, rfl, rfl⟩
    · exact exec_driveLine_failed (pin := .reset) hfree hopen ⟨hready, rfl⟩ hfailed
    · exact exec_driveLine_failed (pin := .reset) hfree hopen ⟨hready, rfl⟩ hfailed
    · exact exec_driveLine_failed (pin := .txrx) hfree hopen ⟨hready, rfl⟩ hfailed
    · exact exec_driveLine_failed (pin := .reset) hfree hopen ⟨hready, rfl⟩ hfailed
    · exact exec_driveLine_failed (pin := .txrx) hfree hopen ⟨hready, rfl⟩ hfailed
  · have reads : ∀ pin, Runs s i (requireGpio (readLine pin)) → ∃ t, exec i s = .next t ∧
        Returned s t [] [] (.err ⟨.transportFailure, .lineError, []⟩) ∧ SameParts s t ∧ t.device = s.device := by
      intro pin hruns
      obtain ⟨t, hexec, hreturned, hparts, hdevice, -⟩ := exec_lineRead hfree hopen hruns rfl
        (Prog.run_readLine_failed (.inl (by rwa [s.entered_answer])))
      exact ⟨t, hexec, hreturned, hparts, hdevice⟩
    simp only [List.mem_cons, List.not_mem_nil, or_false] at hi
    rcases hi with rfl | rfl | rfl
    · exact reads .reset ⟨hready, rfl⟩
    · exact reads .txrx ⟨hready, rfl⟩
    · exact reads .txrx ⟨hready, rfl⟩

end Sys2Proof.Machine
end

section
/-! What the resource primitives reply and leave, and the opening of the line sequencer (R133, R144, R146, R215, R243,
R257). -/

namespace Sys2Proof.Machine

/-! ### What the resource primitives reply -/

/-- A primitive has replied that it succeeded, or that it did not, and left this state. -/
def Performed.Replies (x : Performed) (ok : Bool) (t : State) : Prop := ∃ r, r.isOk = ok ∧ x = .replied r t

namespace Prog

variable {p : Prim} {s t : State} {q q' : Prog} {ok : Bool}

theorem run_act_of_ok (h : (p.perform s).Replies true t) :
    (act p fun r => if !r.isOk then q' else q).run s = q.run t := by
  obtain ⟨r, hr, hp⟩ := h
  simp [run, hp, hr]

theorem run_act_of_failed (h : (p.perform s).Replies false t) :
    (act p fun r => if !r.isOk then q' else q).run s = q'.run t := by
  obtain ⟨r, hr, hp⟩ := h
  simp [run, hp, hr]

theorem run_act_ignored (h : (p.perform s).Replies ok t) : (act p fun _ => q).run s = q.run t := by
  obtain ⟨r, -, hp⟩ := h
  simp [run, hp]

end Prog

section
variable {possible : Bool} {ev : Event} {f g h : State → State} {s : State}

theorem replies_attempt_ok (hok : s.answer.status = .ok) :
    (attempt true ev f g h s).Replies true (f (s.attempted ev true)) :=
  ⟨_, by simp [Reply.isOk, hok], attempt_ok hok⟩

theorem replies_attempt_failed (hfailed : s.answer.status = .failed ∨ s.answer.status = .ok ∧ possible = false) :
    (attempt possible ev f g h s).Replies false (g (s.attempted ev false)) :=
  ⟨_, rfl, attempt_failed hfailed⟩

/-- A primitive with the same effects whether it succeeds or fails. -/
theorem replies_attempt_any (hends : s.answer.status ≠ .stalled) :
    (attempt true ev f f h s).Replies (s.answer.status == .ok) (f (s.attempted ev (s.answer.status == .ok))) := by
  cases hstatus : s.answer.status with
  | ok => exact replies_attempt_ok hstatus
  | failed => exact replies_attempt_failed (.inl hstatus)
  | stalled => exact absurd hstatus hends

end

namespace State

/-- The state after the chip's handle has been acquired (R133). -/
def chipOpened (s : State) (chip : Path) : State := (s.attempted (.chipOpen chip) true).setChip chip

/-- The state after a line has been requested and driven low (R133). -/
def lineRequested (s : State) (l : Nat) : State :=
  (((s.attempted (.lineRequest l) true).setLines (l :: s.ctl.gpio.lines)).emit s.attemptEnd s.attemptEnd
    (.lineSet l false) true).startLine l

/-- The state after the release of a line, which went through or failed (R140, R146). -/
def lineReleased (s : State) (l : Nat) : State :=
  ((s.attempted (.lineRelease l) (s.answer.status == .ok)).setLines (s.ctl.gpio.lines.erase l)).floatLine l
    s.answer.level

/-- The state after the release of the chip, which went through or failed (R140). -/
def chipReleased (s : State) : State := s.attempted .chipRelease (s.answer.status == .ok)

section
variable (s : State) (chip : Path) (l : Nat)

@[simp] theorem chipOpened_ctl :
    (s.chipOpened chip).ctl = { s.ctl with gpio := { s.ctl.gpio with chip := chip } } := rfl
@[simp] theorem lineRequested_ctl : (s.lineRequested l).ctl =
    { s.ctl with gpio := { s.ctl.gpio with lines := l :: s.ctl.gpio.lines } } := by
  rw [lineRequested, wire_ctl]
  rfl
@[simp] theorem lineReleased_ctl : (s.lineReleased l).ctl =
    { s.ctl with gpio := { s.ctl.gpio with lines := s.ctl.gpio.lines.erase l } } := by
  rw [lineReleased, wire_ctl]
  rfl
@[simp] theorem chipReleased_ctl : s.chipReleased.ctl = s.ctl := rfl

@[simp] theorem chipOpened_now : (s.chipOpened chip).now = s.attemptEnd := rfl
@[simp] theorem lineRequested_now : (s.lineRequested l).now = s.attemptEnd := by simp [lineRequested]
@[simp] theorem lineReleased_now : (s.lineReleased l).now = s.attemptEnd := by simp [lineReleased]
@[simp] theorem chipReleased_now : s.chipReleased.now = s.attemptEnd := rfl

@[simp] theorem chipOpened_device : (s.chipOpened chip).device = s.device := rfl
@[simp] theorem chipReleased_device : s.chipReleased.device = s.device := rfl

/-- A request moves no register (R147, R243). -/
@[simp] theorem lineRequested_regs : (s.lineRequested l).device.regs = s.device.regs := by
  unfold lineRequested
  exact wire_regs _ rfl l

/-- Neither does a release (R257). -/
@[simp] theorem lineReleased_regs : (s.lineReleased l).device.regs = s.device.regs := by
  unfold lineReleased
  exact wire_regs _ rfl l

theorem acted_chipOpened : Acted s (s.chipOpened chip) [(.chipOpen chip, true)] 1 :=
  (Acted.attempted s true rfl).assign _

theorem acted_lineRequested :
    Acted s (s.lineRequested l) [(.lineRequest l, true), (.lineSet l false, true)] 1 := by
  unfold lineRequested
  exact (((Acted.attempted s true rfl).assign _).emit _ _ true rfl).wire _ _ _

theorem acted_lineReleased :
    Acted s (s.lineReleased l) [(.lineRelease l, s.answer.status == .ok)] 1 := by
  unfold lineReleased
  exact ((Acted.attempted s _ rfl).assign _).wire _ _ _

theorem acted_chipReleased : Acted s s.chipReleased [(.chipRelease, s.answer.status == .ok)] 1 :=
  Acted.attempted s _ rfl

variable {s}

theorem acted_lineReleased_ok (h : s.answer.status = .ok) :
    Acted s (s.lineReleased l) [(.lineRelease l, true)] 1 := by simpa [h] using s.acted_lineReleased l

theorem acted_chipReleased_ok (h : s.answer.status = .ok) : Acted s s.chipReleased [(.chipRelease, true)] 1 := by
  simpa [h] using s.acted_chipReleased

theorem lineRequested_reset_wired (hchip : s.ctl.gpio.chip = s.cfg.gpioChip) :
    (s.lineRequested s.cfg.resetLine).device = s.device.startLow s.attemptEnd := by
  unfold lineRequested
  exact wire_resetLine _ false hchip

theorem lineRequested_txrx_wired (hchip : s.ctl.gpio.chip = s.cfg.gpioChip) (hne : s.cfg.txrxLine ≠ s.cfg.resetLine) :
    (s.lineRequested s.cfg.txrxLine).device = { s.device with txrxPin := false } := by
  unfold lineRequested
  exact wire_txrxLine _ false hchip hne

theorem lineReleased_reset_wired (h : s.ctl.gpio.isWired s.cfg = true) :
    (s.lineReleased s.ctl.gpio.resetLine).device = s.device.float s.attemptEnd s.answer.level := by
  unfold lineReleased
  exact wire_wired_reset (s := (s.attempted _ _).setLines _) _ _ h

theorem lineReleased_txrx_wired (h : s.ctl.gpio.isWired s.cfg = true) :
    (s.lineReleased s.ctl.gpio.txrxLine).device = { s.device with txrxPin := s.answer.level } := by
  unfold lineReleased
  exact wire_wired_txrx (s := (s.attempted _ _).setLines _) _ _ h

end

end State

section
variable {s : State}

theorem replies_chipOpen (chip : Path) (hok : s.answer.status = .ok) :
    ((Prim.chipOpen chip).perform s).Replies true (s.chipOpened chip) := by
  simp only [Prim.perform]
  exact replies_attempt_ok hok

theorem replies_chipOpen_failed (chip : Path) (hfailed : s.answer.status = .failed) :
    ((Prim.chipOpen chip).perform s).Replies false (s.attempted (.chipOpen chip) false) := by
  simp only [Prim.perform]
  exact replies_attempt_failed (.inl hfailed)

theorem replies_lineRequest {l : Nat} (hheld : s.lineHeld l = false) (hok : s.answer.status = .ok) :
    ((Prim.lineRequest l).perform s).Replies true (s.lineRequested l) := by
  simp only [Prim.perform, hheld]
  exact replies_attempt_ok hok

/-- A line is not granted where the platform reports an error or a sequencer holds it (R133, R144). -/
theorem replies_lineRequest_failed {l : Nat} (hends : s.answer.status ≠ .stalled)
    (hclaimed : s.answer.status = .failed ∨ s.lineHeld l = true) :
    ((Prim.lineRequest l).perform s).Replies false (s.attempted (.lineRequest l) false) := by
  simp only [Prim.perform]
  refine replies_attempt_failed ?_
  cases hstatus : s.answer.status with
  | ok => exact .inr ⟨rfl, by simpa [hstatus] using hclaimed⟩
  | failed => exact .inl rfl
  | stalled => exact absurd hstatus hends

theorem replies_lineRelease (l : Nat) (hends : s.answer.status ≠ .stalled) :
    ((Prim.lineRelease l).perform s).Replies (s.answer.status == .ok) (s.lineReleased l) := by
  simp only [Prim.perform]
  exact replies_attempt_any hends

theorem replies_chipRelease (hends : s.answer.status ≠ .stalled) :
    (Prim.chipRelease.perform s).Replies (s.answer.status == .ok) s.chipReleased := by
  simp only [Prim.perform]
  exact replies_attempt_any hends

end

/-! ### Lines that are free (R133, R144) -/

namespace State

theorem lineHeld_eq (s : State) (l : Nat) :
    s.lineHeld l = !s.linesFree s.ctl.gpio s.alone.gpio s.ctl.gpio.chip [l] := by
  simp [lineHeld, linesFree]

theorem linesFree_cons (s : State) (g g' : Gpio) (chip : Path) (l : Nat) (ls : List Nat) :
    s.linesFree g g' chip (l :: ls) = (s.linesFree g g' chip [l] && s.linesFree g g' chip ls) := by
  simp [linesFree]

section
variable (s : State) (i : Instr) (chip : Path) (l l' : Nat)

theorem chipOpened_lineHeld :
    (s.chipOpened chip).lineHeld l = !s.linesFree s.ctl.gpio s.alone.gpio chip [l] := by
  rw [lineHeld_eq]
  rfl

/-- A requested line is held, beside those that were (R133). -/
theorem lineRequested_lineHeld : (s.lineRequested l).lineHeld l' = (l' == l || s.lineHeld l') := by
  have hacted := s.acted_lineRequested l
  simp [lineHeld, hacted.alone, hacted.parked, Bool.or_assoc, Bool.beq_eq_decide_eq]

end

end State

/-! ### Opening (R133, R215) -/

/-- The state after an open that went through. -/
def State.sequencerOpened (s : State) (chip : Path) (l₁ l₂ : Nat) : State :=
  { ((s.chipOpened chip).lineRequested l₁).lineRequested l₂ with
    ctl := { s.ctl with gpio := s.ctl.gpio.afterOpen chip l₁ l₂ } }

section
variable {s : State} {chip : Path} {l₁ l₂ : Nat} (hclosed : s.ctl.gpio.isOpen = false)

theorem Prog.run_openSequencer_already (hopen : s.ctl.gpio.isOpen = true) :
    (openSequencer chip l₁ l₂).run s = .done (.err ⟨.resourceUnavailable, .gpioAlreadyOpen, []⟩) s := by
  rw [openSequencer, run_look, if_pos hopen, run_raise]

include hclosed

theorem Prog.run_openSequencer_noChip (hfailed : s.answer.status = .failed) :
    (openSequencer chip l₁ l₂).run s = .done (.err ⟨.resourceUnavailable, .chipMissing, []⟩)
      (s.attempted (.chipOpen chip) false) := by
  rw [openSequencer, run_look, if_neg (by simp [hclosed]), run_act_of_failed (replies_chipOpen_failed chip hfailed),
    run_raise]

/-- The first line is not granted: the chip is released (R133, R215). -/
theorem Prog.run_openSequencer_noFirst {t : State} (hchip : s.answer.status = .ok)
    (hfirst : ((Prim.lineRequest l₁).perform (s.chipOpened chip)).Replies false t) (hrelease : t.answer.status = .ok) :
    (openSequencer chip l₁ l₂).run s = .done (.err ⟨.resourceUnavailable, .lineClaimed, []⟩) t.chipReleased := by
  rw [openSequencer, run_look, if_neg (by simp [hclosed]), run_act_of_ok (replies_chipOpen chip hchip),
    run_act_of_failed hfirst, run_act_ignored (replies_chipRelease (by simp [hrelease])), run_raise]

/-- The second line is not granted: the first is released, then the chip (R133, R215). -/
theorem Prog.run_openSequencer_noSecond {t : State} (hchip : s.answer.status = .ok)
    (hfirst : ((Prim.lineRequest l₁).perform (s.chipOpened chip)).Replies true ((s.chipOpened chip).lineRequested l₁))
    (hsecond : ((Prim.lineRequest l₂).perform ((s.chipOpened chip).lineRequested l₁)).Replies false t)
    (hline : t.answer.status = .ok) (hrelease : (t.answerAt 1).status = .ok) :
    (openSequencer chip l₁ l₂).run s =
      .done (.err ⟨.resourceUnavailable, .lineClaimed, []⟩) (t.lineReleased l₁).chipReleased := by
  have hanswer := (t.acted_lineReleased l₁).answer
  rw [openSequencer, run_look, if_neg (by simp [hclosed]), run_act_of_ok (replies_chipOpen chip hchip),
    run_act_of_ok hfirst, run_act_of_failed hsecond, run_act_ignored (replies_lineRelease l₁ (by simp [hline])),
    run_act_ignored (replies_chipRelease (by simp [hanswer, hrelease])), run_raise]

/-- An open that goes through (R133). -/
theorem Prog.run_openSequencer_ok (hchip : s.answer.status = .ok)
    (hfirst : ((Prim.lineRequest l₁).perform (s.chipOpened chip)).Replies true ((s.chipOpened chip).lineRequested l₁))
    (hsecond : ((Prim.lineRequest l₂).perform ((s.chipOpened chip).lineRequested l₁)).Replies true
      (((s.chipOpened chip).lineRequested l₁).lineRequested l₂)) :
    (openSequencer chip l₁ l₂).run s = .done (.ok .unit) (s.sequencerOpened chip l₁ l₂) := by
  rw [openSequencer, run_look, if_neg (by simp [hclosed]), run_act_of_ok (replies_chipOpen chip hchip),
    run_act_of_ok hfirst, run_act_of_ok hsecond]
  simp [State.sequencerOpened, Write.apply, Gpio.afterOpen]

end

section
variable (s : State) (chip : Path) (l₁ l₂ : Nat)

theorem State.acted_sequencerOpened : Acted s (s.sequencerOpened chip l₁ l₂)
    [(.chipOpen chip, true), (.lineRequest l₁, true), (.lineSet l₁ false, true), (.lineRequest l₂, true),
     (.lineSet l₂ false, true)] 3 :=
  ((s.acted_chipOpened chip).trans ((State.acted_lineRequested _ l₁).trans (State.acted_lineRequested _ l₂))).assign _

theorem State.sequencerOpened_regs : (s.sequencerOpened chip l₁ l₂).device.regs = s.device.regs := by
  simp [State.sequencerOpened]

/-- The first line is driven low during the open (R133). -/
theorem State.sequencerOpened_times : s.now ≤ (s.chipOpened chip).attemptEnd ∧
    (s.chipOpened chip).attemptEnd ≤ (s.sequencerOpened chip l₁ l₂).now := by
  have hchip := s.le_attemptEnd
  have hfirst := (s.chipOpened chip).le_attemptEnd
  have hsecond := ((s.chipOpened chip).lineRequested l₁).le_attemptEnd
  simp only [State.sequencerOpened, State.chipOpened_now, State.lineRequested_now] at hfirst hsecond ⊢
  omega

/-- On the wired lines an open leaves both pins low (R133, R242). -/
theorem State.sequencerOpened_wired (hne : s.cfg.resetLine ≠ s.cfg.txrxLine) :
    (s.sequencerOpened s.cfg.gpioChip s.cfg.resetLine s.cfg.txrxLine).device =
      { s.device.startLow (s.chipOpened s.cfg.gpioChip).attemptEnd with txrxPin := false } := by
  have hfirst : ((s.chipOpened s.cfg.gpioChip).lineRequested s.cfg.resetLine).device =
      s.device.startLow (s.chipOpened s.cfg.gpioChip).attemptEnd := State.lineRequested_reset_wired rfl
  have hcfg := ((s.acted_chipOpened s.cfg.gpioChip).trans (State.acted_lineRequested _ s.cfg.resetLine)).cfg
  have hsecond := State.lineRequested_txrx_wired
    (s := (s.chipOpened s.cfg.gpioChip).lineRequested s.cfg.resetLine) (by rw [hcfg]; simp)
    (by rw [hcfg]; exact hne.symm)
  rw [hcfg] at hsecond
  exact hsecond.trans (by rw [hfirst])

end

/-! ### The call of an open -/

section
variable (s : State) (chip : Path) (l l₁ l₂ : Nat)

theorem State.entered_parked (i : Instr) : (s.entered i).parked = s.parked := by simp [State.entered]

/-- Whether an open's request finds its line held already (R133, R144). -/
theorem entered_lineHeld : ((s.entered (.gpioOpen chip l₁ l₂)).chipOpened chip).lineHeld l =
    !s.linesFree s.alone.gpio s.ctl.gpio chip [l] := by
  rw [State.chipOpened_lineHeld, State.entered_gpio, s.entered_alone rfl]
  simp only [State.linesFree, State.entered_parked]
  rfl

theorem runs_gpioOpen : Runs s (.gpioOpen chip l₁ l₂) (.uninterrupted (openSequencer chip l₁ l₂)) := ⟨nofun, rfl⟩

end

section
variable {s : State} {chip : Path} {l₁ l₂ : Nat} (hfree : s.lockFree = true)
  (hclosed : s.alone.gpio.isOpen = false)
include hfree hclosed

/-- An open that fails after the chip was acquired leaves a closed sequencer with the lines it held, if any. -/
theorem exec_gpioOpen_released {t : State} {e : Error} {side : List (Event × Bool)} {n : Nat}
    (hrun : (openSequencer chip l₁ l₂).run (s.entered (.gpioOpen chip l₁ l₂)) = .done (.err e) t)
    (hkind : e.kind ≠ .invalidState) (h : Acted (s.entered (.gpioOpen chip l₁ l₂)) t side n)
    (hctl : t.ctl = { (s.entered (.gpioOpen chip l₁ l₂)).ctl with gpio := { s.alone.gpio with chip := chip } }) :
    ∃ t', exec (.gpioOpen chip l₁ l₂) s = .next t' ∧ Returned s t' [] side (.err e) ∧
      t'.alone.gpio.isOpen = false ∧ t'.alone.gpio.lines = s.alone.gpio.lines ∧ t'.alone.spi = s.alone.spi ∧
      t'.ctl = s.ctl ∧ t'.device = t.device := by
  obtain ⟨hexec, hreturned, -⟩ := exec_acted hfree (runs_gpioOpen s chip l₁ l₂)
    ((Prog.run_uninterrupted _ _).trans hrun) (Result.inController_err hkind) h
  obtain ⟨hctl', halone'⟩ : _ ∧ _ := onlyGpio_afterCall (.err e) hctl h.alone
  refine ⟨_, hexec, hreturned, ?_, ?_, ?_, hctl', State.afterCall_device _ _ _⟩ <;> rw [halone']
  exact hclosed

theorem exec_gpioOpen_ok (hlines : s.linesFree s.alone.gpio s.ctl.gpio chip [l₁, l₂] = true) (hne : l₁ ≠ l₂)
    (hans : s.answersSucceed 3 = true) :
    ∃ t, exec (.gpioOpen chip l₁ l₂) s = .next t ∧
      Returned s t [] [(.chipOpen chip, true), (.lineRequest l₁, true), (.lineSet l₁ false, true),
        (.lineRequest l₂, true), (.lineSet l₂ false, true)] (.ok .unit) ∧
      OnlyGpio (.gpioOpen chip l₁ l₂) s t (s.alone.gpio.afterOpen chip l₁ l₂) ∧ t.lastEnd = s.lastEnd ∧
      t.device = ((s.entered (.gpioOpen chip l₁ l₂)).sequencerOpened chip l₁ l₂).device ∧
      t.now = ((s.entered (.gpioOpen chip l₁ l₂)).sequencerOpened chip l₁ l₂).now := by
  rw [State.linesFree_cons, Bool.and_eq_true] at hlines
  obtain ⟨hfree₁, hfree₂⟩ := hlines
  rw [State.answersSucceed_iff] at hans
  generalize he : s.entered (.gpioOpen chip l₁ l₂) = e
  have hanswers : ∀ k, e.answerAt k = s.answerAt k := fun k => he ▸ answerAt_entered s _ k
  have hheld : ∀ l, (e.chipOpened chip).lineHeld l = !s.linesFree s.alone.gpio s.ctl.gpio chip [l] :=
    fun l => he ▸ entered_lineHeld s chip l l₁ l₂
  have hchip := e.acted_chipOpened chip
  have hfirst := hchip.trans (State.acted_lineRequested _ l₁)
  have hrun := Prog.run_openSequencer_ok (s := e) (chip := chip) (l₁ := l₁) (l₂ := l₂)
    (by rw [← he, s.entered_gpio]; exact hclosed)
    (by rw [← State.answerAt_zero, hanswers]; exact hans 0 (by decide))
    (replies_lineRequest (by rw [hheld, hfree₁]; rfl) (by rw [hchip.answer, hanswers]; exact hans 1 (by decide)))
    (replies_lineRequest (by rw [State.lineRequested_lineHeld, hheld, hfree₂]; simpa using hne.symm)
      (by rw [hfirst.answer, hanswers]; exact hans 2 (by decide)))
  have hacted := e.acted_sequencerOpened chip l₁ l₂
  subst he
  obtain ⟨hexec, hreturned, hend⟩ := exec_acted hfree (runs_gpioOpen s chip l₁ l₂)
    ((Prog.run_uninterrupted _ _).trans hrun) rfl hacted
  have hparts := onlyGpio_afterCall (s := s) (i := .gpioOpen chip l₁ l₂) (g := s.alone.gpio.afterOpen chip l₁ l₂)
    (.ok .unit) (by rw [State.sequencerOpened, s.entered_gpio]; rfl) hacted.alone
  exact ⟨_, hexec, hreturned, hparts, hend, State.afterCall_device _ _ _, State.afterCall_now _ _ _⟩

end

/-- Settles O23: the two requests are granted and drive their lines low, the wired reset line during the call. -/
theorem gpioOpenCompletes : Obligations.GpioOpenCompletes := by
  intro s chip l₁ l₂ hfree hclosed hlines hne hans
  obtain ⟨t, hexec, hreturned, ⟨hctl, halone⟩, hend, hdevice, hnow⟩ := exec_gpioOpen_ok hfree hclosed hlines hne hans
  refine ⟨t, hexec, hreturned, halone, hctl, hend, ?_, fun hwired => ?_⟩
  · rw [hdevice, State.sequencerOpened_regs, s.entered_device]
  · rw [halone, hreturned.cfg, Gpio.isWired_iff] at hwired
    obtain ⟨rfl, rfl, rfl, -⟩ := hwired
    have hlow := State.sequencerOpened_wired (s.entered (.gpioOpen s.cfg.gpioChip s.cfg.resetLine s.cfg.txrxLine))
    obtain ⟨hstart, hstop⟩ := State.sequencerOpened_times
      (s.entered (.gpioOpen s.cfg.gpioChip s.cfg.resetLine s.cfg.txrxLine))
      s.cfg.gpioChip s.cfg.resetLine s.cfg.txrxLine
    rw [cfg_entered, s.entered_device] at hlow
    rw [s.entered_now] at hstart
    rw [hdevice, hlow hne, hnow]
    exact ⟨rfl, rfl, rfl, fun hhigh => ⟨_, Device.fallen_high _ hhigh.symm, hstart, hstop⟩⟩

section
variable {s : State} {chip : Path} {l₁ l₂ : Nat} (hfree : s.lockFree = true)
include hfree

theorem exec_gpioOpen_already (hopen : s.alone.gpio.isOpen = true) :
    exec (.gpioOpen chip l₁ l₂) s = .next (s.rejected .resourceUnavailable .gpioAlreadyOpen) :=
  exec_of_run_unchanged hfree rfl <| (Prog.run_uninterrupted _ _).trans <|
    Prog.run_openSequencer_already (by rw [s.entered_gpio]; exact hopen)

variable (hclosed : s.alone.gpio.isOpen = false)
include hclosed

theorem exec_gpioOpen_noChip (hfailed : s.answer.status = .failed) :
    ∃ t, exec (.gpioOpen chip l₁ l₂) s = .next t ∧
      Returned s t [] [(.chipOpen chip, false)] (.err ⟨.resourceUnavailable, .chipMissing, []⟩) ∧
      SameParts s t ∧ t.device = s.device := by
  have hrun := (Prog.run_uninterrupted _ _).trans <| Prog.run_openSequencer_noChip
    (s := s.entered (.gpioOpen chip l₁ l₂)) (chip := chip) (l₁ := l₁) (l₂ := l₂)
    (by rw [s.entered_gpio]; exact hclosed) (by rwa [s.entered_answer])
  obtain ⟨hexec, hreturned, -⟩ :=
    exec_acted hfree (runs_gpioOpen s chip l₁ l₂) hrun rfl (Acted.attempted _ false rfl)
  exact ⟨_, hexec, hreturned, sameParts_afterCall _ rfl rfl, by simp⟩

theorem exec_gpioOpen_noFirst (hchip : s.answer.status = .ok) (hends : (s.answerAt 1).status ≠ .stalled)
    (hclaimed : (s.answerAt 1).status = .failed ∨ s.linesFree s.alone.gpio s.ctl.gpio chip [l₁] = false)
    (hrelease : (s.answerAt 2).status = .ok) :
    ∃ t, exec (.gpioOpen chip l₁ l₂) s = .next t ∧
      Returned s t [] [(.chipOpen chip, true), (.lineRequest l₁, false), (.chipRelease, true)]
        (.err ⟨.resourceUnavailable, .lineClaimed, []⟩) ∧
      t.alone.gpio.isOpen = false ∧ t.alone.gpio.lines = s.alone.gpio.lines ∧
      t.alone.spi = s.alone.spi ∧ t.ctl = s.ctl ∧ t.device = s.device := by
  generalize he : s.entered (.gpioOpen chip l₁ l₂) = e
  have hanswers : ∀ k, e.answerAt k = s.answerAt k := fun k => he ▸ answerAt_entered s _ k
  have hopened := e.acted_chipOpened chip
  have hrequested := hopened.trans (Acted.attempted _ (ev := .lineRequest l₁) false rfl)
  have hstatus : ((e.chipOpened chip).attempted (.lineRequest l₁) false).answer.status = .ok := by
    rwa [hrequested.answer, hanswers]
  have hrun := Prog.run_openSequencer_noFirst (s := e) (chip := chip) (l₁ := l₁) (l₂ := l₂)
    (by rw [← he, s.entered_gpio]; exact hclosed) (by rwa [← State.answerAt_zero, hanswers, State.answerAt_zero])
    (replies_lineRequest_failed (by rwa [hopened.answer, hanswers])
      (by rw [hopened.answer, hanswers, ← he, entered_lineHeld]; simpa using hclaimed)) hstatus
  have hacted := hrequested.trans (State.acted_chipReleased_ok hstatus)
  subst he
  have hreleased := exec_gpioOpen_released hfree hclosed hrun (by simp) hacted
    (by rw [State.chipReleased_ctl, State.attempted_ctl, State.chipOpened_ctl, State.entered_gpio]; rfl)
  rwa [State.chipReleased_device, State.attempted_device, State.chipOpened_device, s.entered_device] at hreleased

theorem exec_gpioOpen_noSecond (hans : s.answersSucceed 2 = true)
    (hlines : s.linesFree s.alone.gpio s.ctl.gpio chip [l₁] = true) (hends : (s.answerAt 2).status ≠ .stalled)
    (hclaimed : (s.answerAt 2).status = .failed ∨ s.linesFree s.alone.gpio s.ctl.gpio chip [l₂] = false ∨ l₁ = l₂)
    (hline : (s.answerAt 3).status = .ok) (hrelease : (s.answerAt 4).status = .ok) :
    ∃ t, exec (.gpioOpen chip l₁ l₂) s = .next t ∧
      Returned s t [] [(.chipOpen chip, true), (.lineRequest l₁, true), (.lineSet l₁ false, true),
        (.lineRequest l₂, false), (.lineRelease l₁, true), (.chipRelease, true)]
        (.err ⟨.resourceUnavailable, .lineClaimed, []⟩) ∧
      t.alone.gpio.isOpen = false ∧ t.alone.gpio.lines = s.alone.gpio.lines ∧
      t.alone.spi = s.alone.spi ∧ t.ctl = s.ctl ∧ t.device.regs = s.device.regs := by
  rw [State.answersSucceed_iff] at hans
  generalize he : s.entered (.gpioOpen chip l₁ l₂) = e
  have hanswers : ∀ k, e.answerAt k = s.answerAt k := fun k => he ▸ answerAt_entered s _ k
  have hheld : ∀ l, (e.chipOpened chip).lineHeld l = !s.linesFree s.alone.gpio s.ctl.gpio chip [l] :=
    fun l => he ▸ entered_lineHeld s chip l l₁ l₂
  have hopened := e.acted_chipOpened chip
  have hfirst := hopened.trans (State.acted_lineRequested _ l₁)
  have hclaimed' : ((e.chipOpened chip).lineRequested l₁).answer.status = .failed ∨
      ((e.chipOpened chip).lineRequested l₁).lineHeld l₂ = true := by
    rw [hfirst.answer, hanswers, State.lineRequested_lineHeld, hheld]
    rcases hclaimed with hfailed | hclaimed | rfl
    · exact .inl hfailed
    · exact .inr (by simp [hclaimed])
    · exact .inr (by simp)
  have hsecond := hfirst.trans (Acted.attempted _ (ev := .lineRequest l₂) false rfl)
  generalize ht : ((e.chipOpened chip).lineRequested l₁).attempted (.lineRequest l₂) false = t at hsecond
  have hlineStatus : t.answer.status = .ok := by rwa [hsecond.answer, hanswers]
  have hreleased := hsecond.trans (State.acted_lineReleased_ok l₁ hlineStatus)
  have hchipStatus : (t.lineReleased l₁).answer.status = .ok := by rwa [hreleased.answer, hanswers]
  have hrun := Prog.run_openSequencer_noSecond (s := e) (chip := chip) (l₁ := l₁) (l₂ := l₂) (t := t)
    (by rw [← he, s.entered_gpio]; exact hclosed)
    (by rw [← State.answerAt_zero, hanswers]; exact hans 0 (by decide))
    (replies_lineRequest (by rw [hheld, hlines]; rfl) (by rw [hopened.answer, hanswers]; exact hans 1 (by decide)))
    (ht ▸ replies_lineRequest_failed (by rwa [hfirst.answer, hanswers]) hclaimed')
    hlineStatus (by rwa [hsecond.answers, hanswers])
  have hacted := hreleased.trans (State.acted_chipReleased_ok hchipStatus)
  subst ht he
  obtain ⟨t, hexec, hreturned, hisOpen, hlines, hspi, hctl, hdevice⟩ :=
    exec_gpioOpen_released hfree hclosed hrun (by simp) hacted (by simp [State.gpioFor, Instr.isController])
  exact ⟨t, hexec, hreturned, hisOpen, hlines, hspi, hctl, by simp [hdevice]⟩

end

/-- Settles O24: the open stops at the step that fails, and what it acquired is released in reverse order. -/
theorem gpioOpenFailures : Obligations.GpioOpenFailures := fun _ _ _ _ hfree =>
  ⟨exec_gpioOpen_already hfree, exec_gpioOpen_noChip hfree, exec_gpioOpen_noFirst hfree, exec_gpioOpen_noSecond hfree⟩

end Sys2Proof.Machine
end

section
/-! The closing of the line sequencer (R140, R146, R248, R257). -/

namespace Sys2Proof.Machine

/-! ### What a close returns (R140, R218) -/

/-- The result of a close with this many failed releases. -/
def closeResult : Nat → Result
  | 0 => .ok .unit
  | 1 => .err ⟨.transportFailure, .releaseError, []⟩
  | n + 2 => .err ⟨.compositeCloseError, .closeErrors, List.replicate (n + 2) .transportFailure⟩

theorem closeResult_inController (n : Nat) : (closeResult n).inController = closeResult n := by
  rcases n with _ | _ | n <;> rfl

theorem releaseError_eq (r : Reply) :
    releaseError r = List.replicate (!r.isOk).toNat .transportFailure := by
  cases hr : r.isOk <;> simp [releaseError, hr]

/-- Of three answers that are no stalls, those that are no successes are the failures. -/
theorem countP_failed {s : State} (h : ∀ k < 3, (s.answerAt k).status ≠ .stalled) :
    ((List.range 3).countP fun k => (s.answerAt k).status == .failed) =
      (!((s.answerAt 0).status == .ok)).toNat + (!((s.answerAt 1).status == .ok)).toNat +
        (!((s.answerAt 2).status == .ok)).toNat := by
  have failed : ∀ k < 3, (if ((s.answerAt k).status == .failed) = true then 1 else 0) =
      (!((s.answerAt k).status == .ok)).toNat := by
    intro k hk
    have hends := h k hk
    cases hstatus : (s.answerAt k).status with
    | ok | failed => rfl
    | stalled => exact absurd hstatus hends
  rw [← failed 0 (by decide), ← failed 1 (by decide), ← failed 2 (by decide)]
  simp only [List.range_succ, List.range_zero, List.nil_append, List.cons_append, List.countP_cons, List.countP_nil]
  omega

/-! ### The run of a close -/

namespace State

/-- The state after the three releases of a close, whatever they report. -/
def sequencerReleased (s : State) : State :=
  ((s.lineReleased s.ctl.gpio.txrxLine).lineReleased s.ctl.gpio.resetLine).chipReleased

/-- The sequencer just after a close. -/
def gpioClosed (s : State) : Gpio :=
  { s.ctl.gpio with
    isOpen := false
    lines := (s.ctl.gpio.lines.erase s.ctl.gpio.txrxLine).erase s.ctl.gpio.resetLine }

/-- The state after a close. -/
def sequencerClosed (s : State) : State :=
  { s.sequencerReleased with ctl := { s.ctl with gpio := s.gpioClosed } }

section
variable (s : State)

theorem acted_sequencerClosed : Acted s s.sequencerClosed
    [(.lineRelease s.ctl.gpio.txrxLine, (s.answerAt 0).status == .ok),
     (.lineRelease s.ctl.gpio.resetLine, (s.answerAt 1).status == .ok),
     (.chipRelease, (s.answerAt 2).status == .ok)] 3 := by
  have htxrx := s.acted_lineReleased s.ctl.gpio.txrxLine
  have hreset := htxrx.trans (acted_lineReleased _ s.ctl.gpio.resetLine)
  have hchip := hreset.trans (acted_chipReleased _)
  rw [htxrx.answer, hreset.answer, ← answerAt_zero] at hchip
  exact hchip.assign _

theorem sequencerClosed_regs : s.sequencerClosed.device.regs = s.device.regs := by
  simp [sequencerClosed, sequencerReleased]

/-- The reset line is released during the close. -/
theorem sequencerClosed_times : s.now ≤ (s.lineReleased s.ctl.gpio.txrxLine).attemptEnd ∧
    (s.lineReleased s.ctl.gpio.txrxLine).attemptEnd ≤ s.sequencerClosed.now := by
  have htxrx := s.le_attemptEnd
  have hreset := (s.lineReleased s.ctl.gpio.txrxLine).le_attemptEnd
  have hchip := ((s.lineReleased s.ctl.gpio.txrxLine).lineReleased s.ctl.gpio.resetLine).le_attemptEnd
  simp only [lineReleased_now, sequencerClosed, sequencerReleased, chipReleased_now] at hreset hchip ⊢
  omega

/-- The wired lines are at the levels the platform has left them at (R146). -/
theorem sequencerClosed_wired (h : s.ctl.gpio.isWired s.cfg = true) :
    s.sequencerClosed.device = Device.float { s.device with txrxPin := s.answer.level }
      (s.lineReleased s.ctl.gpio.txrxLine).attemptEnd (s.answerAt 1).level := by
  have htxrx := lineReleased_txrx_wired h
  have hacted := s.acted_lineReleased s.ctl.gpio.txrxLine
  have hctl := s.lineReleased_ctl s.ctl.gpio.txrxLine
  have hwired : (s.lineReleased s.ctl.gpio.txrxLine).ctl.gpio.isWired
      (s.lineReleased s.ctl.gpio.txrxLine).cfg = true := by
    rw [hctl, hacted.cfg]
    exact h
  have hreset := lineReleased_reset_wired hwired
  rw [htxrx, hacted.answer, hctl] at hreset
  exact hreset

end

end State

/-- A close whose releases all end (R140). -/
theorem Prog.run_closeSequencer {s : State} (hopen : s.ctl.gpio.isOpen = true)
    (hends : ∀ k < 3, (s.answerAt k).status ≠ .stalled) :
    closeSequencer.run s = .done (closeResult ((List.range 3).countP fun k => (s.answerAt k).status == .failed))
      s.sequencerClosed := by
  have hacted₁ := s.acted_lineReleased s.ctl.gpio.txrxLine
  have hacted₂ := hacted₁.trans (State.acted_lineReleased _ s.ctl.gpio.resetLine)
  obtain ⟨r₁, hr₁, hp₁⟩ := replies_lineRelease s.ctl.gpio.txrxLine (s.answerAt_zero ▸ hends 0 (by decide))
  obtain ⟨r₂, hr₂, hp₂⟩ := replies_lineRelease (s := s.lineReleased s.ctl.gpio.txrxLine) s.ctl.gpio.resetLine
    (by rw [hacted₁.answer]; exact hends 1 (by decide))
  obtain ⟨r₃, hr₃, hp₃⟩ := replies_chipRelease
    (s := (s.lineReleased s.ctl.gpio.txrxLine).lineReleased s.ctl.gpio.resetLine)
    (by rw [hacted₂.answer]; exact hends 2 (by decide))
  rw [hacted₁.answer] at hr₂
  rw [hacted₂.answer] at hr₃
  rw [← State.answerAt_zero] at hr₁
  rw [countP_failed hends, ← hr₁, ← hr₂, ← hr₃, closeSequencer, run_look, if_pos hopen]
  simp only [run, hp₁, hp₂, hp₃, run_assign, releaseError_eq, List.replicate_append_replicate]
  generalize (!r₁.isOk).toNat + (!r₂.isOk).toNat + (!r₃.isOk).toNat = n
  have hctl : Write.apply ((s.lineReleased s.ctl.gpio.txrxLine).lineReleased s.ctl.gpio.resetLine).chipReleased.ctl
      (.gpioOpen false) = { s.ctl with gpio := s.gpioClosed } := by simp [Write.apply, State.gpioClosed]
  rw [hctl]
  rcases n with _ | _ | n <;> rfl

/-- A closed sequencer is closed already (R140). -/
theorem Prog.run_closeSequencer_closed {s : State} (hclosed : s.ctl.gpio.isOpen = false) :
    closeSequencer.run s = .done (.ok .unit) s := by
  rw [closeSequencer, run_look, if_neg (by simp [hclosed]), run_ret]

/-! ### The call of a close -/

theorem runs_gpioClose (s : State) : Runs s .gpioClose (.uninterrupted closeSequencer) := ⟨nofun, rfl⟩

section
variable {s : State} (hfree : s.lockFree = true)
include hfree

theorem exec_gpioClose_closed (hclosed : s.alone.gpio.isOpen = false) :
    exec .gpioClose s = .next (s.deliver (.ok .unit)) :=
  exec_of_run_unchanged hfree rfl <| (Prog.run_uninterrupted _ _).trans <|
    Prog.run_closeSequencer_closed (by rw [s.entered_gpio]; exact hclosed)

theorem exec_gpioClose_open (hopen : s.alone.gpio.isOpen = true)
    (hends : ∀ k < 3, (s.answerAt k).status ≠ .stalled) :
    ∃ t, exec .gpioClose s = .next t ∧
      Returned s t []
        [(.lineRelease s.alone.gpio.txrxLine, (s.answerAt 0).status == .ok),
         (.lineRelease s.alone.gpio.resetLine, (s.answerAt 1).status == .ok),
         (.chipRelease, (s.answerAt 2).status == .ok)]
        (closeResult ((List.range 3).countP fun k => (s.answerAt k).status == .failed)) ∧
      OnlyGpio .gpioClose s t (s.entered .gpioClose).gpioClosed ∧ t.lastEnd = s.lastEnd ∧
      t.device = (s.entered .gpioClose).sequencerClosed.device ∧
      t.now = (s.entered .gpioClose).sequencerClosed.now := by
  have hrun := Prog.run_closeSequencer (s := s.entered .gpioClose) (by rw [s.entered_gpio]; exact hopen)
    (by simpa only [answerAt_entered] using hends)
  have hacted := (s.entered .gpioClose).acted_sequencerClosed
  simp only [answerAt_entered] at hrun
  obtain ⟨hexec, hreturned, hend⟩ := exec_acted hfree (runs_gpioClose s) ((Prog.run_uninterrupted _ _).trans hrun)
    (closeResult_inController _) hacted
  simp only [answerAt_entered, s.entered_gpio] at hreturned
  exact ⟨_, hexec, hreturned, onlyGpio_afterCall _ rfl hacted.alone, hend,
    State.afterCall_device _ _ _, State.afterCall_now _ _ _⟩

end

/-- Settles O31: the three releases are attempted in turn, and of the device they move only the lines. -/
theorem gpioCloseOutcomes : Obligations.GpioCloseOutcomes := by
  refine fun s hfree => ⟨exec_gpioClose_closed hfree, fun hopen hends => ?_⟩
  obtain ⟨t, hexec, hreturned, ⟨hctl, halone⟩, hend, hdevice, hnow⟩ := exec_gpioClose_open hfree hopen hends
  refine ⟨t, hexec, ?_, by rw [halone]; rfl, by rw [halone], hctl, ?_, hend, fun hwired => ?_⟩
  · revert hreturned
    generalize ((List.range 3).countP fun k => (s.answerAt k).status == .failed) = n
    rcases n with _ | _ | n <;> exact id
  · rw [hdevice, State.sequencerClosed_regs, s.entered_device]
  · have hlevel := (s.entered .gpioClose).sequencerClosed_wired (by rw [s.entered_gpio, cfg_entered]; exact hwired)
    obtain ⟨hstart, hstop⟩ := (s.entered .gpioClose).sequencerClosed_times
    rw [s.entered_now] at hstart
    rw [answerAt_entered] at hlevel
    rw [hdevice, hlevel, hnow]
    refine ⟨rfl, fun hhigh n => Device.hazard_of_high n hhigh, fun hhigh hlow => ⟨_, ?_, hstart, hstop⟩⟩
    rw [Device.float_resetPin] at hlow
    rw [hlow]
    exact Device.float_fell_of_high _ _ (by rw [s.entered_device]; exact hhigh)

end Sys2Proof.Machine
end

section
/-! The two frequency formulas (R150, R151): their values as rounded rationals, the bounds that the legal range of
`FXOSC` is drawn for (R152), the error of the round trip and the order they keep (R157, R159). -/

namespace Sys2Proof

theorem legalFxosc_iff {fxosc : Nat} : legalFxosc fxosc = true ↔ 31875001 ≤ fxosc ∧ fxosc ≤ 268435471 := by
  rw [legalFxosc, Bool.and_eq_true, decide_eq_true_iff, decide_eq_true_iff]

theorem validHz_iff {f : Nat} : validHz f = true ↔ 400000000 ≤ f ∧ f ≤ 510000000 := by
  rw [validHz, Bool.and_eq_true, decide_eq_true_iff, decide_eq_true_iff]

/-! ### The formulas are half-up roundings (R13) -/

/-- A quotient rounded half up, as one of integers. -/
theorem floor_div_add_half (n : Nat) {d : Nat} (h : 0 < d) :
    ⌊(n : Rat) / d + 1 / 2⌋ = ((2 * n + d) / (2 * d) : Nat) := by
  have hne : (d : Rat) ≠ 0 := by positivity
  have hquot : (n : Rat) / d + 1 / 2 = ((2 * n + d : Nat) : Rat) / ((2 * d : Nat) : Rat) := by
    push_cast
    field_simp
  rw [hquot, Rat.floor_natCast_div_natCast, Int.natCast_ediv]

theorem tuningWord_eq_floor {fxosc : Nat} (h : 0 < fxosc) (f : Nat) :
    (tuningWord fxosc f : Int) = ⌊(f : Rat) * 2 ^ 20 / fxosc + 1 / 2⌋ := by
  have hfloor := floor_div_add_half (f * 2 ^ 20) h
  rw [Nat.cast_mul, Nat.cast_pow, Nat.cast_ofNat] at hfloor
  rw [hfloor, tuningWord, show f * 2 ^ 21 = 2 * (f * 2 ^ 20) by ring]

theorem wordHz_eq_floor (fxosc w : Nat) : (wordHz fxosc w : Int) = ⌊(fxosc : Rat) * w / 2 ^ 20 + 1 / 2⌋ := by
  have hfloor := floor_div_add_half (fxosc * w) (d := 2 ^ 20) (by decide)
  rw [Nat.cast_mul, Nat.cast_pow, Nat.cast_ofNat] at hfloor
  rw [hfloor, wordHz]
  omega

theorem floor_fxosc_half (fxosc : Nat) :
    ⌊(fxosc : Rat) / 2 ^ 21 + 1 / 2⌋ = ((fxosc + 2 ^ 20) / 2 ^ 21 : Nat) := by
  have hfloor := floor_div_add_half fxosc (d := 2 ^ 21) (by decide)
  rw [Nat.cast_pow, Nat.cast_ofNat] at hfloor
  rw [hfloor]
  omega

/-! ### Order (R159) -/

theorem tuningWord_mono (fxosc : Nat) {f f' : Nat} (h : f ≤ f') : tuningWord fxosc f ≤ tuningWord fxosc f' :=
  Nat.div_le_div_right (by omega)

theorem wordHz_mono {fxosc fxosc' w w' : Nat} (hfxosc : fxosc ≤ fxosc') (h : w ≤ w') :
    wordHz fxosc w ≤ wordHz fxosc' w' :=
  Nat.div_le_div_right (Nat.add_le_add_right (Nat.mul_le_mul hfxosc h) _)

/-! ### The bounds of the legal range (R152) -/

/-- The lower bound: the word of 510 MHz, the largest valid frequency, fits 24 bits. -/
theorem tuningWord_top_le_iff {fxosc : Nat} (h : 0 < fxosc) :
    tuningWord fxosc 510000000 ≤ 0xFFFFFF ↔ 31875001 ≤ fxosc := by
  rw [tuningWord, ← Nat.lt_succ_iff, Nat.div_lt_iff_lt_mul (by omega)]
  omega

/-- The upper bound: the frequency of the largest word fits 32 bits. -/
theorem wordHz_top_le_iff {fxosc : Nat} : wordHz fxosc 0xFFFFFF ≤ 2 ^ 32 - 1 ↔ fxosc ≤ 268435471 := by
  rw [wordHz]
  omega

theorem tuningWord_lt {fxosc f : Nat} (hfxosc : legalFxosc fxosc = true) (hf : f ≤ 510000000) :
    tuningWord fxosc f < 2 ^ 24 := by
  have hlow := (legalFxosc_iff.mp hfxosc).1
  have htop := (tuningWord_top_le_iff (by omega)).mpr hlow
  exact Nat.lt_succ_of_le ((tuningWord_mono fxosc hf).trans htop)

theorem wordHz_le {fxosc w : Nat} (hfxosc : legalFxosc fxosc = true) (hw : w ≤ 0xFFFFFF) :
    wordHz fxosc w ≤ 2 ^ 32 - 1 :=
  (wordHz_mono le_rfl hw).trans (wordHz_top_le_iff.mpr (legalFxosc_iff.mp hfxosc).2)

/-! ### The round trip (R157) -/

/-- Half a step of the word moves the frequency by `FXOSC / 2^21`, and both rounding errors together by no more than
that, rounded half up. -/
theorem roundTrip_error {fxosc : Nat} (h : 0 < fxosc) (f : Nat) :
    |(wordHz fxosc (tuningWord fxosc f) : Int) - f| ≤ ⌊(fxosc : Rat) / 2 ^ 21 + 1 / 2⌋ := by
  have hpos : 0 < 2 * fxosc := by omega
  have hdown : tuningWord fxosc f * (2 * fxosc) ≤ f * 2 ^ 21 + fxosc := Nat.div_mul_le_self _ _
  have hup : f * 2 ^ 21 + fxosc < tuningWord fxosc f * (2 * fxosc) + 2 * fxosc := Nat.lt_div_mul_add hpos
  have hcomm : tuningWord fxosc f * (2 * fxosc) = 2 * (fxosc * tuningWord fxosc f) := by ring
  rw [hcomm] at hdown hup
  rw [floor_fxosc_half, abs_le, wordHz]
  generalize fxosc * tuningWord fxosc f = p at hdown hup
  omega

end Sys2Proof

namespace Sys2Proof.Machine

/-- Settles O6: each integer quotient is the floor of its rational one; and the formulas are monotone, so that each
range is a matter of its largest value. -/
theorem frequencyFormulas : Obligations.FrequencyFormulas := fun fxosc f w hpos =>
  ⟨tuningWord_eq_floor hpos f, rfl, wordHz_eq_floor fxosc w, rfl,
   fun hfxosc _ hf => Nat.le_of_lt_succ (tuningWord_lt hfxosc hf), wordHz_le⟩

/-- Settles O8: the error is bounded for every frequency, and at 32 MHz each bound is the formulas' value there. -/
theorem roundTripAndMonotone : Obligations.RoundTripAndMonotone := by
  refine ⟨fun fxosc f hfxosc _ _ => roundTrip_error (by have := legalFxosc_iff.mp hfxosc; omega) f,
    by norm_num [Int.floor_eq_iff], by norm_num [Int.ceil_eq_iff],
    fun fxosc f f' _ => tuningWord_mono fxosc, fun fxosc w w' => wordHz_mono le_rfl, fun f hlow hhigh => ?_⟩
  have hfirst : 0xC80000 ≤ tuningWord 32000000 f := tuningWord_mono 32000000 hlow
  have hlast : tuningWord 32000000 f ≤ 0xFF0000 := tuningWord_mono 32000000 hhigh
  refine ⟨hfirst, hlast, ?_⟩
  rw [toNat_wordMsb (by omega)]
  omega

end Sys2Proof.Machine
end


section
/-! Single register accesses one after another: what the frames that went through leave in the device's record, and the
state in which an operation that sent them returns (R118, R119, R123, R248). -/

namespace Sys2Proof.Machine

/-! ### One write -/

section
variable {s : State} {a : Nat} (ha : a ≤ 0x13) (v : Byte)
include ha

/-- Outside a hazard a write moves no other register (R118). -/
theorem read_transferred_writeFrame_of_ne (hz : s.hazardNext = false) {b : Nat} (hb : b ≠ a) :
    Memory.read b (s.transferred (writeFrame a v)).device.regs = Memory.read b s.device.regs := by
  obtain ⟨-, haddr⟩ := addressByte_parts true ha
  rw [State.transferred_device]
  exact Device.read_accept_outside hz (by rw [haddr, List.length_singleton]; omega)

/-- Outside a hazard the written register, but for VERSION and STAT, holds its byte (R118; assumption 17). -/
theorem read_transferred_writeFrame_self (hz : s.hazardNext = false) (hversion : a ≠ Reg.version.addr)
    (hstat : a ≠ Reg.stat.addr) :
    Memory.read a (s.transferred (writeFrame a v)).device.regs = some v := by
  rw [State.transferred_device]
  exact (congrArg (fun d : Device => Memory.read a d.regs) (accept_burstWriteFrame ha [v] hz)).trans
    (Memory.read_writeRun_inside (k := 0) (by simp) ha hversion hstat)

/-- A register that is unknown, or becomes so in a hazard, does not get known by the write of another (R248). -/
theorem read_transferred_writeFrame_none {b : Nat} (hb : b ≠ a)
    (h : s.hazardNext = true ∨ Memory.read b s.device.regs = none) :
    Memory.read b (s.transferred (writeFrame a v)).device.regs = none := by
  cases hz : s.hazardNext with
  | true => rw [State.transferred_device, Device.accept_hazard _ _ hz]; rfl
  | false => rw [read_transferred_writeFrame_of_ne ha v hz hb]; exact h.resolve_left (by simp [hz])

end

/-! ### Writes one after another -/

/-- The single writes of some cells, in order (R91). -/
def writeFrames (es : List Host.Cell) : List Frame := es.map fun e => writeFrame e.1 e.2

theorem writeFrames_cons (e : Host.Cell) (es : List Host.Cell) :
    writeFrames (e :: es) = writeFrame e.1 e.2 :: writeFrames es := rfl

/-- Transfers after one that is no hazard are none either: the lines do not move (R248). -/
theorem hazardNext_sent {s : State} (h : s.hazardNext = false) (fs : List Frame) :
    (s.sent fs).hazardNext = false := by
  induction fs generalizing s with
  | nil => exact h
  | cons f fs ih => exact ih (s.transferred_hazard f h)

section
variable {es : List Host.Cell} (ha : ∀ e ∈ es, e.1 ≤ 0x13)
include ha

theorem sameRegsBut_writeFrames {s : State} (hz : s.hazardNext = false) :
    SameRegsBut (es.map Prod.fst) s (s.sent (writeFrames es)) := by
  induction es generalizing s with
  | nil => exact fun _ _ => rfl
  | cons e es ih =>
    obtain ⟨hfirst, hrest⟩ := List.forall_mem_cons.mp ha
    intro b hb
    obtain ⟨hne, hb⟩ := not_or.mp (mt List.mem_cons.mpr hb)
    exact (ih hrest (s.transferred_hazard _ hz) b hb).trans (read_transferred_writeFrame_of_ne hfirst e.2 hz hne)

theorem read_writeFrames_mem {s : State} (hz : s.hazardNext = false) (hnodup : (es.map Prod.fst).Nodup)
    {e : Host.Cell} (he : e ∈ es) (hversion : e.1 ≠ Reg.version.addr) (hstat : e.1 ≠ Reg.stat.addr) :
    Memory.read e.1 (s.sent (writeFrames es)).device.regs = some e.2 := by
  induction es generalizing s with
  | nil => cases he
  | cons d es ih =>
    obtain ⟨hfirst, hrest⟩ := List.forall_mem_cons.mp ha
    obtain ⟨hd, hnodup⟩ := List.nodup_cons.mp hnodup
    have hz' : (s.transferred (writeFrame d.1 d.2)).hazardNext = false := s.transferred_hazard _ hz
    rcases List.mem_cons.mp he with rfl | he
    · exact (sameRegsBut_writeFrames hrest hz' e.1 hd).trans
        (read_transferred_writeFrame_self hfirst e.2 hz hversion hstat)
    · exact ih hrest hz' hnodup he

theorem read_writeFrames_none {s : State} {b : Nat} (hb : b ∉ es.map Prod.fst)
    (h : Memory.read b s.device.regs = none) : Memory.read b (s.sent (writeFrames es)).device.regs = none := by
  induction es generalizing s with
  | nil => exact h
  | cons e es ih =>
    obtain ⟨hfirst, hrest⟩ := List.forall_mem_cons.mp ha
    obtain ⟨hne, hb⟩ := not_or.mp (mt List.mem_cons.mpr hb)
    exact ih hrest hb (read_transferred_writeFrame_none hfirst e.2 hne (.inr h))

end

/-! ### Reads one after another -/

/-- A read leaves the device as it is, but that a hazard leaves no register known (R119, R248). -/
theorem transferred_readFrame_device {a : Nat} (ha : a ≤ 0x13) (s : State) :
    (s.transferred (readFrame a)).device = if s.hazardNext then { s.device with regs := [] } else s.device := by
  cases hz : s.hazardNext with
  | true => rw [State.transferred_device, Device.accept_hazard _ _ hz]; rfl
  | false =>
    rw [State.hazardNext] at hz
    simp [readFrame, Device.accept, hz, (addressByte_parts false ha).1]

/-- Where nothing is known any more, or no hazard comes, reads leave the device as it is. -/
theorem sent_readFrames_device {as : List Nat} (ha : ∀ a ∈ as, a ≤ 0x13) {s : State}
    (h : s.hazardNext = false ∨ s.device.regs = []) : (s.sent (as.map readFrame)).device = s.device := by
  induction as generalizing s with
  | nil => rfl
  | cons a as ih =>
    obtain ⟨hfirst, hrest⟩ := List.forall_mem_cons.mp ha
    have hsame : (s.transferred (readFrame a)).device = s.device := by
      rw [transferred_readFrame_device hfirst]
      rcases h with hz | hregs
      · simp [hz]
      · rw [← hregs]; exact ite_self _
    have hkept := h.imp (fun hz => s.transferred_hazard (readFrame a) hz) fun hregs => hsame ▸ hregs
    exact (ih hrest hkept).trans hsame

/-! ### The state in which the operation returns -/

namespace State

/-- The state after an operation that sends some frames and then returns. -/
def completed (s : State) (i : Instr) (fs : List Frame) (v : Value) : State :=
  ((s.entered i).sent fs).afterCall i (.ok v)

@[simp] theorem entered_hazardNext (s : State) (i : Instr) : (s.entered i).hazardNext = s.hazardNext := by
  simp [hazardNext]

@[simp] theorem afterCall_inputs (t : State) (i : Instr) (r : Result) : (t.afterCall i r).inputs = t.inputs := by
  cases hi : i.isController <;> simp [afterCall, hi]

@[simp] theorem afterCall_drawn (t : State) (i : Instr) (r : Result) : (t.afterCall i r).drawn = t.drawn := by
  cases hi : i.isController <;> simp [afterCall, hi]

section
variable (s : State) (i : Instr) (fs : List Frame) (v : Value)

@[simp] theorem completed_device : (s.completed i fs v).device = ((s.entered i).sent fs).device :=
  afterCall_device _ _ _

@[simp] theorem completed_answerAt (k : Nat) : (s.completed i fs v).answerAt k = s.answerAt (k + fs.length) := by
  rw [completed, answerAt_congr (afterCall_inputs _ _ _) (afterCall_drawn _ _ _), sent_answerAt, answerAt_entered]

theorem completed_hazardNext : (s.completed i fs v).hazardNext = ((s.entered i).sent fs).hazardNext := by
  rw [hazardNext, completed, nextStart_congr (afterCall_inputs _ _ _) (afterCall_drawn _ _ _)
    (afterCall_now _ _ _) (afterCall_lastEnd _ _ _), afterCall_device]
  rfl

theorem sameParts_completed : SameParts s (s.completed i fs v) := sameParts_afterCall _ (by simp) (by simp)

theorem sameLines_completed : SameLines s (s.completed i fs v) :=
  ((SameLines.of_device (s.entered_device i)).trans (sameLines_sent _ fs)).trans (.of_device (by simp [completed]))

theorem busRested_completed {fs : List Frame} (h : fs ≠ []) : BusRested (s.completed i fs v) := by
  simpa [BusRested, completed] using busRested_sent (s.entered i) h

variable {s i fs v}

/-- Of the platform's answers an operation uses up those to its own frames. -/
theorem answersOk_completed {lens : List Nat} (h : s.answersOk (fs.map List.length ++ lens) = true) :
    s.answersOk (fs.map List.length) = true ∧ (s.completed i fs v).answersOk lens = true := by
  simp only [answersOk_iff] at h ⊢
  refine ⟨fun k n hk => h k n (List.getElem?_append_left (List.getElem?_eq_some_iff.mp hk).1 ▸ hk),
    fun k n hk => ?_⟩
  rw [completed_answerAt]
  exact h _ n (by rw [List.getElem?_append_right (by simp)]; simpa using hk)

end

end State

/-- The operation sends its frames and returns. -/
theorem exec_completed {s : State} {i : Instr} {fs : List Frame} {v : Value} (hfree : s.lockFree = true)
    (hrun : (programOf s.cfg i).Answers (s.entered i) fs v) (hans : s.answersOk (fs.map List.length) = true) :
    exec i s = .next (s.completed i fs v) ∧ Returned s (s.completed i fs v) fs [] (.ok v) :=
  have hdone := hrun (by rwa [answersOk_entered])
  ⟨exec_of_run hfree hdone, returned_of_exec hfree hdone (by simp) (by simp)⟩

/-- The effect of an operation that writes cells one by one (R118, R123, R248). -/
theorem wroteRegs_completed (s : State) (i : Instr) (v : Value) {es : List Host.Cell} (hne : es ≠ [])
    (ha : ∀ e ∈ es, e.1 ≤ 0x13) : WroteRegs s (s.completed i (writeFrames es) v) es where
  parts := s.sameParts_completed i _ v
  lines := s.sameLines_completed i _ v
  others hz a hnot := by
    rw [State.completed_device, sameRegsBut_writeFrames ha (by simpa using hz) a hnot, s.entered_device]
  values hz hnodup e he hversion hstat := by
    rw [State.completed_device]
    exact read_writeFrames_mem ha (by simpa using hz) hnodup he hversion hstat
  hazardous hz a hnot := by
    obtain ⟨e, es, rfl⟩ := List.exists_cons_of_ne_nil hne
    obtain ⟨hfirst, hrest⟩ := List.forall_mem_cons.mp ha
    obtain ⟨hfst, hnot⟩ := not_or.mp (mt List.mem_cons.mpr hnot)
    rw [State.completed_device]
    exact read_writeFrames_none hrest hnot (read_transferred_writeFrame_none hfirst e.2 hfst (.inl (by simpa using hz)))
  rested := s.busRested_completed i v (by simpa [writeFrames] using hne)

/-- The effect of an operation that reads registers one by one (R119, R123, R248). -/
theorem readRegs_completed (s : State) (i : Instr) (v : Value) {as : List Nat} (hne : as ≠ [])
    (ha : ∀ a ∈ as, a ≤ 0x13) : ReadRegs s (s.completed i (as.map readFrame) v) where
  parts := s.sameParts_completed i _ v
  device := by
    obtain ⟨a, as, rfl⟩ := List.exists_cons_of_ne_nil hne
    obtain ⟨hfirst, hrest⟩ := List.forall_mem_cons.mp ha
    have hdevice := transferred_readFrame_device hfirst (s.entered i)
    rw [s.entered_hazardNext, s.entered_device] at hdevice
    rw [State.completed_device, ← hdevice]
    refine sent_readFrames_device hrest ?_
    cases hz : s.hazardNext with
    | true => exact .inr (by rw [hdevice, hz]; rfl)
    | false => exact .inl (State.transferred_hazard _ _ (hz ▸ s.entered_hazardNext i))
  rested := s.busRested_completed i v (by simpa using hne)

end Sys2Proof.Machine
end

section
/-! The operations of 42_synthesizer.md: what they refuse and reject, and what they send and leave where they go through
or break off midway (R149, R152 to R158, R161). -/

namespace Sys2Proof.Machine

/-! ### The two words -/

/-- The operation sets the word whose high byte is in the given register (R153, R155). -/
structure SetsWord (i : Instr) (first : Reg) (f : Nat) : Prop where
  controller : i.isController = true
  program : ∀ cfg, programOf cfg i = setFrequency cfg first f
  beforeVersion : first.addr + 2 < Reg.version.addr

/-- The operation reads that word back (R154, R156). -/
structure GetsWord (i : Instr) (first : Reg) : Prop where
  controller : i.isController = true
  program : ∀ cfg, programOf cfg i = getFrequency cfg first
  beforeVersion : first.addr + 2 < Reg.version.addr

theorem setsWord_rx (f : Nat) : SetsWord (.setRxFrequency f) .frfhRx f := ⟨rfl, fun _ => rfl, by decide⟩

theorem setsWord_tx (f : Nat) : SetsWord (.setTxFrequency f) .frfhTx f := ⟨rfl, fun _ => rfl, by decide⟩

theorem getsWord_rx : GetsWord .getRxFrequency .frfhRx := ⟨rfl, fun _ => rfl, by decide⟩

theorem getsWord_tx : GetsWord .getTxFrequency .frfhTx := ⟨rfl, fun _ => rfl, by decide⟩

theorem SetsWord.inRange {i : Instr} {first : Reg} {f : Nat} (h : SetsWord i first f) : first.addr + 2 ≤ 0x13 :=
  h.beforeVersion.le.trans (by decide)

theorem GetsWord.inRange {i : Instr} {first : Reg} (h : GetsWord i first) : first.addr + 2 ≤ 0x13 :=
  h.beforeVersion.le.trans (by decide)

/-- The three registers of a word, with the word's bytes (R100). -/
def wordCells (first : Reg) (w : Nat) : List Host.Cell :=
  [(first.addr, wordMsb w), (first.addr + 1, wordMid w), (first.addr + 2, wordLsb w)]

theorem wordFrames_eq (first : Reg) (w : Nat) : wordFrames first w = writeFrames (wordCells first w) := rfl

theorem wordReads_eq (first : Reg) :
    wordReads first = [first.addr, first.addr + 1, first.addr + 2].map readFrame := rfl

theorem nodup_wordCells (first : Reg) (w : Nat) : ((wordCells first w).map Prod.fst).Nodup := by
  simp [wordCells]

theorem addr_le_of_mem_wordCells {first : Reg} {w : Nat} {e : Host.Cell} (he : e ∈ wordCells first w) :
    e.1 ≤ first.addr + 2 := by
  simp only [wordCells, List.mem_cons, List.not_mem_nil, or_false] at he
  rcases he with rfl | rfl | rfl <;> simp

/-! ### Refused and rejected -/

/-- An illegal `FXOSC` is looked at before anything else (R152; assumption 14). -/
theorem Prog.run_requireFxosc_not {s : State} {cfg : Config} (q : Prog) (h : legalFxosc cfg.fxosc = false) :
    (requireFxosc cfg q).run s = .refused .fxoscOutsideRange := by simp [requireFxosc, h, run]

/-- A controller operation under an illegal `FXOSC`, which it asks for. -/
theorem exec_fxoscRefused {s : State} {i : Instr} {q : Prog} (hi : i.isController = true)
    (hprog : programOf s.cfg i = requireFxosc s.cfg q) (hfree : s.lockFree = true)
    (hfxosc : legalFxosc s.cfg.fxosc = false) : exec i s = .refused .fxoscOutsideRange := by
  rw [exec_eq_runCall hi, hprog]
  exact runCall_of_refuse hfree (Prog.run_requireFxosc_not q hfxosc)

/-- Settles O7: each bound is `tuningWord_top_le_iff`'s or `wordHz_top_le_iff`'s, and the four operations ask for a
legal `FXOSC` first. -/
theorem fxoscRange : Obligations.FxoscRange :=
  ⟨fun _ => legalFxosc_iff, by decide, fun _ => tuningWord_top_le_iff, fun _ => wordHz_top_le_iff,
   fun _ _ hfree _ hfxosc => ⟨exec_fxoscRefused rfl rfl hfree hfxosc, exec_fxoscRefused rfl rfl hfree hfxosc,
     exec_fxoscRefused rfl rfl hfree hfxosc, exec_fxoscRefused rfl rfl hfree hfxosc⟩⟩

/-- A set of a frequency outside the valid range ends at its range check (R149). -/
theorem exec_setFrequency_rejected {s : State} {i : Instr} {first : Reg} {f : Nat} (hi : SetsWord i first f)
    (hfree : s.lockFree = true) (hready : s.ctl.phase = .ready) (hfxosc : legalFxosc s.cfg.fxosc = true)
    (hf : ¬validHz f = true) : exec i s = .next (s.rejected .invalidArgument .frequencyOutsideRange) := by
  rw [exec_eq_runCall hi.controller, hi.program, setFrequency, if_neg hf]
  refine runCall_done hfree ?_
  rw [Prog.run_requireFxosc _ hfxosc, Prog.run_requireReady _ (by simpa using hready)]
  rfl

/-- Settles O34: the range check is the last before the first write. -/
theorem frequencyRangeChecked : Obligations.FrequencyRangeChecked := by
  refine ⟨fun _ => validHz_iff, fun s f hfree hready hfxosc hf => ?_⟩
  have hinvalid : ¬validHz f = true := by rw [validHz_iff]; omega
  exact ⟨exec_setFrequency_rejected (setsWord_rx f) hfree hready hfxosc hinvalid,
    exec_setFrequency_rejected (setsWord_tx f) hfree hready hfxosc hinvalid⟩

/-! ### What the operations ask for -/

/-- The frequency operations can go through: no stuck call holds the lock, a session is open (R185), and `FXOSC` is
legal (R152). -/
structure Tunable (s : State) : Prop where
  lockFree : s.lockFree = true
  inSession : s.inSession = true
  fxosc : legalFxosc s.cfg.fxosc = true

theorem State.inSession_iff {s : State} : s.inSession = true ↔
    s.ctl.phase = .ready ∧ s.ctl.spi.isOpen = true ∧ s.ctl.gpio.isOpen = true := by
  simp only [State.inSession, Bool.and_eq_true, decide_eq_true_eq, and_assoc]

/-- A call that returned and kept the components leaves what the next one asks for. -/
theorem Tunable.of_returned {s t : State} {fs : List Frame} {side : List (Event × Bool)} {r : Result}
    (h : Tunable s) (hreturned : Returned s t fs side r) (hparts : SameParts s t) : Tunable t where
  lockFree := by rw [State.lockFree, hreturned.cfg, hreturned.owner]; exact h.lockFree
  inSession := by rw [State.inSession, hparts.ctl]; exact h.inSession
  fxosc := by rw [hreturned.cfg]; exact h.fxosc

theorem Tunable.entered_ready {s : State} (h : Tunable s) (i : Instr) : (s.entered i).ctl.phase = .ready := by
  rw [s.entered_phase]
  exact (State.inSession_iff.mp h.inSession).1

theorem Tunable.entered_isOpen {s : State} (h : Tunable s) {i : Instr} (hi : i.isController = true) :
    (s.entered i).ctl.spi.isOpen = true := by
  obtain ⟨-, hopen, -⟩ := State.inSession_iff.mp h.inSession
  simpa [State.entered, hi] using hopen

/-! ### Sets that go through -/

section
variable {s : State} {i : Instr} {first : Reg} {f : Nat} (h : Tunable s) (hi : SetsWord i first f)
include h hi

theorem Tunable.exec_set (hf : validHz f = true) (hans : s.answersOk [2, 2, 2] = true) :
    exec i s = .next (s.completed i (wordFrames first (tuningWord s.cfg.fxosc f)) .unit) ∧
      Returned s (s.completed i (wordFrames first (tuningWord s.cfg.fxosc f)) .unit)
        (wordFrames first (tuningWord s.cfg.fxosc f)) [] (.ok .unit) := by
  refine exec_completed h.lockFree ?_ hans
  rw [hi.program, setFrequency, if_pos hf]
  exact ((Prog.answers_writeWord (h.entered_isOpen hi.controller) hi.inRange _).requireReady
    (h.entered_ready i)).requireFxosc h.fxosc

end

theorem wroteRegs_setWord {i : Instr} {first : Reg} {f : Nat} (hi : SetsWord i first f) (s : State) (w : Nat) :
    WroteRegs s (s.completed i (wordFrames first w) .unit) (wordCells first w) := by
  rw [wordFrames_eq]
  exact wroteRegs_completed s i .unit (List.cons_ne_nil _ _)
    fun _ he => (addr_le_of_mem_wordCells he).trans hi.inRange

/-- Settles O32: the three frames are the word's, and the registers they write its cells. -/
theorem setFrequencyCompletes : Obligations.SetFrequencyCompletes := by
  rintro s f w hfree hsession hfxosc hlow hhigh hans rfl
  have htunable : Tunable s := ⟨hfree, hsession, hfxosc⟩
  have hf : validHz f = true := validHz_iff.mpr ⟨hlow, hhigh⟩
  obtain ⟨hexecRx, hreturnedRx⟩ := htunable.exec_set (setsWord_rx f) hf hans
  obtain ⟨hexecTx, hreturnedTx⟩ := htunable.exec_set (setsWord_tx f) hf hans
  exact ⟨⟨_, hexecRx, hreturnedRx, wroteRegs_setWord (setsWord_rx f) s _⟩,
    ⟨_, hexecTx, hreturnedTx, wroteRegs_setWord (setsWord_tx f) s _⟩⟩

/-! ### Read-backs -/

/-- The frequency that a read-back gives: that of the word that the three bytes read make (R151, R154). -/
def State.hzRead (s : State) (first : Reg) : Nat :=
  wordHz s.cfg.fxosc
    (joinWord (s.byteRead 0 1 first.addr) (s.byteRead 1 1 (first.addr + 1)) (s.byteRead 2 1 (first.addr + 2)))

section
variable {s : State} {i : Instr} {first : Reg} (h : Tunable s) (hi : GetsWord i first)
include h hi

theorem Tunable.exec_get (hans : s.answersOk [2, 2, 2] = true) :
    exec i s = .next (s.completed i (wordReads first) (.hz (s.hzRead first))) ∧
      Returned s (s.completed i (wordReads first) (.hz (s.hzRead first))) (wordReads first) []
        (.ok (.hz (s.hzRead first))) := by
  refine exec_completed h.lockFree ?_ hans
  have hread := Prog.answers_readWord (h.entered_isOpen hi.controller) hi.inRange
    fun w => .hz (wordHz s.cfg.fxosc w)
  simp only [byteRead_entered] at hread
  rw [hi.program, getFrequency]
  exact (hread.requireReady (h.entered_ready i)).requireFxosc h.fxosc

end

theorem readRegs_getWord {i : Instr} {first : Reg} (hi : GetsWord i first) (s : State) (v : Value) :
    ReadRegs s (s.completed i (wordReads first) v) := by
  have hrange := hi.inRange
  rw [wordReads_eq]
  refine readRegs_completed s i v (List.cons_ne_nil _ _) ?_
  simp only [List.forall_mem_cons, List.not_mem_nil, false_implies, implies_true, and_true]
  omega

/-- Settles O33: the three bytes read lie side by side in the word that is converted. -/
theorem getFrequencyCompletes : Obligations.GetFrequencyCompletes := by
  intro s h m l hfree hsession hfxosc hans
  have htunable : Tunable s := ⟨hfree, hsession, hfxosc⟩
  constructor
  · rintro rfl rfl rfl
    obtain ⟨hexec, hreturned⟩ := htunable.exec_get getsWord_rx hans
    rw [← joinWord_eq]
    exact ⟨_, hexec, hreturned, readRegs_getWord getsWord_rx s _⟩
  · rintro rfl rfl rfl
    obtain ⟨hexec, hreturned⟩ := htunable.exec_get getsWord_tx hans
    rw [← joinWord_eq]
    exact ⟨_, hexec, hreturned, readRegs_getWord getsWord_tx s _⟩

/-! ### A set whose second write fails -/

/-- The run breaks off at the second frame, whose registers are forgotten (R124, R158). -/
theorem Tunable.exec_set_breaks {s : State} {i : Instr} {first : Reg} {f : Nat} (h : Tunable s)
    (hi : SetsWord i first f) (hf : validHz f = true) (hans : s.answersOk [2] = true)
    (hfailed : (s.answerAt 1).status = .failed) {s₁ : State}
    (hs₁ : s₁ = (s.entered i).transferred (writeFrame first.addr (wordMsb (tuningWord s.cfg.fxosc f)))) :
    ∃ t, exec i s = .next t ∧ t.device = s₁.device.forget s₁.nextStart
      (writeFrame (first.addr + 1) (wordMid (tuningWord s.cfg.fxosc f))) := by
  have hanswer : s₁.answer.status = .failed := by
    rw [hs₁, State.transferred_answer, answerAt_entered]; exact hfailed
  subst hs₁
  have hstops : (programOf s.cfg i).StopsAt (s.entered i) (wordFrames first (tuningWord s.cfg.fxosc f)) := by
    rw [hi.program, setFrequency, if_pos hf]
    exact ((Prog.stopsAt_writeWord (h.entered_isOpen hi.controller) hi.inRange _).requireReady
      (h.entered_ready i)).of_run (Prog.run_requireFxosc _ h.fxosc)
  have hrun := hstops 1 _ _ rfl (by rw [answersOk_entered]; exact hans)
    (fun next => Prog.run_spiTransfer_failed next hanswer) rfl
  exact ⟨_, exec_of_run h.lockFree hrun, State.afterCall_device _ _ _⟩

/-- The high register has been written, the middle one forgotten, and the low one not reached (R124, R158, R250). -/
theorem Tunable.exec_set_failsMidway {s : State} {i : Instr} {first : Reg} {f : Nat} (h : Tunable s)
    (hi : SetsWord i first f) (hf : validHz f = true) (hz : s.hazardNext = false) (hans : s.answersOk [2] = true)
    (hfailed : (s.answerAt 1).status = .failed) :
    ∃ t, exec i s = .next t ∧
      Memory.read first.addr t.device.regs = some (wordMsb (tuningWord s.cfg.fxosc f)) ∧
      Memory.read (first.addr + 1) t.device.regs = none ∧
      Memory.read (first.addr + 2) t.device.regs = Memory.read (first.addr + 2) s.device.regs := by
  have hrange := hi.inRange
  have hversion := hi.beforeVersion
  have hstat : Reg.version.addr < Reg.stat.addr := by decide
  obtain ⟨t, hexec, hdevice⟩ := h.exec_set_breaks hi hf hans hfailed rfl
  have hentered : (s.entered i).hazardNext = false := by rw [s.entered_hazardNext]; exact hz
  have hlater := (s.entered i).transferred_hazard (writeFrame first.addr (wordMsb (tuningWord s.cfg.fxosc f))) hentered
  obtain ⟨-, haddr⟩ := addressByte_parts true (show first.addr + 1 ≤ lastAddr by rw [lastAddr]; omega)
  have hother : ∀ a, a ≠ first.addr + 1 → Memory.read a t.device.regs = Memory.read a ((s.entered i).transferred
      (writeFrame first.addr (wordMsb (tuningWord s.cfg.fxosc f)))).device.regs := fun a ha => by
    rw [hdevice]
    exact Device.read_forget_outside hlater (by rw [haddr, List.length_singleton]; omega)
  refine ⟨t, hexec, ?_, ?_, ?_⟩
  · rw [hother _ (by omega)]
    exact read_transferred_writeFrame_self (by omega) _ hentered (by omega) (by omega)
  · rw [hdevice]
    exact Device.read_forget_targets haddr.le (by rw [haddr]; exact Nat.lt_succ_self _)
  · rw [hother _ (by omega), read_transferred_writeFrame_of_ne (by omega) _ hentered (by omega), s.entered_device]

/-- Settles O35: `Tunable.exec_set_failsMidway` for each of the two words. -/
theorem setFrequencyFailsMidway : Obligations.SetFrequencyFailsMidway := by
  intro s f hfree hsession hfxosc hlow hhigh hz hans hfailed
  have htunable : Tunable s := ⟨hfree, hsession, hfxosc⟩
  have hf : validHz f = true := validHz_iff.mpr ⟨hlow, hhigh⟩
  exact ⟨htunable.exec_set_failsMidway (setsWord_rx f) hf hz hans hfailed,
    htunable.exec_set_failsMidway (setsWord_tx f) hf hz hans hfailed⟩

/-! ### A set and then a get, under `DEVICE_COHERENT` (R157) -/

/-- Outside a hazard a known byte is the one that is read (R40). -/
theorem byteRead_known {s : State} (hcoherent : s.cfg.deviceCoherent = true) (hz : s.hazardNext = false) {a : Nat}
    {b : Byte} (h : Memory.read a s.device.regs = some b) (k j : Nat) : s.byteRead k j a = b := by
  simp [State.byteRead, hcoherent, hz, h]

/-- A read-back gives the frequency of the word that the three registers are known to hold. -/
theorem hzRead_known {s : State} {first : Reg} {w : Nat} (hcoherent : s.cfg.deviceCoherent = true)
    (hz : s.hazardNext = false) (hw : w < 2 ^ 24)
    (hknown : ∀ e ∈ wordCells first w, Memory.read e.1 s.device.regs = some e.2) :
    s.hzRead first = wordHz s.cfg.fxosc w := by
  simp only [wordCells, List.forall_mem_cons] at hknown
  obtain ⟨hmsb, hmid, hlsb, -⟩ := hknown
  rw [State.hzRead, byteRead_known hcoherent hz hmsb, byteRead_known hcoherent hz hmid,
    byteRead_known hcoherent hz hlsb, joinWord_split hw]

theorem Tunable.exec_set_get {s : State} {i j : Instr} {first : Reg} {f : Nat} (h : Tunable s)
    (hi : SetsWord i first f) (hj : GetsWord j first) (hcoherent : s.cfg.deviceCoherent = true)
    (hz : s.hazardNext = false) (hf : validHz f = true) (hans : s.answersOk [2, 2, 2, 2, 2, 2] = true) :
    ∃ t u g, exec i s = .next t ∧ exec j t = .next u ∧
      u.returns = s.returns ++ [⟨s.caller, .ok .unit⟩, ⟨s.caller, .ok (.hz g)⟩] ∧
      |((g : Nat) : Int) - f| ≤ ⌊(s.cfg.fxosc : Rat) / 2 ^ 21 + 1 / 2⌋ := by
  set w := tuningWord s.cfg.fxosc f
  set t := s.completed i (wordFrames first w) .unit
  obtain ⟨hansSet, hansGet⟩ : s.answersOk [2, 2, 2] = true ∧ t.answersOk [2, 2, 2] = true :=
    State.answersOk_completed (fs := wordFrames first w) hans
  obtain ⟨hset, hreturned⟩ := h.exec_set hi hf hansSet
  have hwrote : WroteRegs s t (wordCells first w) := wroteRegs_setWord hi s w
  obtain ⟨hget, hreturned'⟩ := (h.of_returned hreturned hwrote.parts).exec_get hj hansGet
  have hzt : t.hazardNext = false := by
    rw [State.completed_hazardNext]
    exact hazardNext_sent (by rw [s.entered_hazardNext]; exact hz) _
  have hknown : ∀ e ∈ wordCells first w, Memory.read e.1 t.device.regs = some e.2 := fun e he =>
    have hlt := (addr_le_of_mem_wordCells he).trans_lt hi.beforeVersion
    hwrote.values hz (nodup_wordCells first w) e he hlt.ne (hlt.trans (by decide)).ne
  have hword : t.hzRead first = wordHz s.cfg.fxosc w := by
    rw [hzRead_known (by rw [hreturned.cfg]; exact hcoherent) hzt
      (tuningWord_lt h.fxosc (validHz_iff.mp hf).2) hknown, hreturned.cfg]
  refine ⟨t, _, t.hzRead first, hset, hget, ?_, ?_⟩
  · rw [hreturned'.returns, hreturned.returns, hreturned.caller, List.append_assoc]
    rfl
  · rw [hword]
    exact roundTrip_error (by have := legalFxosc_iff.mp h.fxosc; omega) f

/-- Settles O36: the get reads the three bytes that the set has written, so that what is left is the formulas' error. -/
theorem coherentFrequencyRoundTrip : Obligations.CoherentFrequencyRoundTrip := by
  intro s f hfree hsession hfxosc hcoherent hz hlow hhigh hans
  have htunable : Tunable s := ⟨hfree, hsession, hfxosc⟩
  have hf : validHz f = true := validHz_iff.mpr ⟨hlow, hhigh⟩
  exact ⟨htunable.exec_set_get (setsWord_rx f) getsWord_rx hcoherent hz hf hans,
    htunable.exec_set_get (setsWord_tx f) getsWord_tx hcoherent hz hf hans⟩

end Sys2Proof.Machine
end

section
/-! The four gain encoders (R165, R167, R169, R171): the values of their tables and formulas, the field that each code
fits (R175), and which of them keep or turn round the order of their operand (R176). -/

namespace Sys2Proof

/-! ### Clamping (R14) -/

theorem le_clamp {lo hi : Rat} (h : lo ≤ hi) (x : Rat) : lo ≤ clamp x lo hi := by
  unfold clamp
  split_ifs with hlo hhi
  · exact le_rfl
  · exact h
  · exact not_lt.mp hlo

theorem clamp_eq_max_min {lo hi : Rat} (h : lo ≤ hi) (x : Rat) : clamp x lo hi = max lo (min x hi) := by
  unfold clamp
  split_ifs with hlo hhi
  · rw [min_eq_left (hlo.le.trans h), max_eq_left hlo.le]
  · rw [min_eq_right hhi.le, max_eq_right h]
  · rw [min_eq_left (not_lt.mp hhi), max_eq_right (not_lt.mp hlo)]

theorem clamp_mono {lo hi : Rat} (h : lo ≤ hi) {x y : Rat} (hxy : x ≤ y) : clamp x lo hi ≤ clamp y lo hi := by
  rw [clamp_eq_max_min h, clamp_eq_max_min h]
  exact max_le_max le_rfl (min_le_min hxy le_rfl)

/-! ### The LNA ladder (R165) -/

theorem encodeLna_eq (g : Rat) : encodeLna g = if 45 < g then 1 else if 39 < g then 2 else if 30 < g then 3
    else if 18 < g then 4 else if 6 < g then 5 else 6 := by
  simp only [encodeLna, lnaTable, List.find?]
  split_ifs <;> simp [*]

theorem one_le_encodeLna (g : Rat) : 1 ≤ encodeLna g := by
  rw [encodeLna_eq]
  split_ifs <;> decide

/-- The codes rise down the ladder, so that a breakpoint below the value bounds its code. -/
theorem encodeLna_le_of_lt {row : Rat × Nat} (hrow : row ∈ lnaTable) {g : Rat} (hg : row.1 < g) :
    encodeLna g ≤ row.2 := by
  have hrising : lnaTable.Pairwise fun a b => a.2 ≤ b.2 := by decide
  unfold encodeLna
  split
  · next found hfound =>
    obtain ⟨-, above, below, htable, habove⟩ := List.find?_eq_some_iff_append.mp hfound
    rw [htable] at hrow hrising
    obtain ⟨-, hrising, -⟩ := List.pairwise_append.mp hrising
    rcases List.mem_append.mp hrow with hrow | hrow
    · simpa [hg] using habove row hrow
    · rcases List.mem_cons.mp hrow with rfl | hrow
      · exact le_rfl
      · exact List.rel_of_pairwise_cons hrising hrow
  · next hnone => simpa [hg] using List.find?_eq_none.mp hnone row hrow

/-- A code other than the last row's is that of a breakpoint below the value. -/
theorem exists_row_of_encodeLna_ne {g : Rat} (h : encodeLna g ≠ 6) :
    ∃ row ∈ lnaTable, row.1 < g ∧ encodeLna g = row.2 := by
  unfold encodeLna at h ⊢
  split at h
  · next row hrow => exact ⟨row, List.mem_of_find?_eq_some hrow, by simpa using List.find?_some hrow, rfl⟩
  · exact absurd rfl h

theorem encodeLna_antitone {g g' : Rat} (h : g ≤ g') : encodeLna g' ≤ encodeLna g := by
  by_cases hlast : encodeLna g = 6
  · exact hlast ▸ encodeLna_le g'
  · obtain ⟨row, hrow, hlt, hcode⟩ := exists_row_of_encodeLna_ne hlast
    exact hcode ▸ encodeLna_le_of_lt hrow (hlt.trans_le h)

/-! ### The PGA and the mixer (R167, R171) -/

theorem encodePga_eq_floor (g : Rat) : (encodePga g : Int) = ⌊clamp g 0 30 / 2⌋ := by
  have hlow : 0 ≤ clamp g 0 30 := le_clamp (by norm_num) g
  have hfloor : 0 ≤ ⌊clamp g 0 30 / 2⌋ := Int.floor_nonneg.mpr (by positivity)
  exact Int.toNat_of_nonneg hfloor

theorem encodePga_mono {g g' : Rat} (h : g ≤ g') : encodePga g ≤ encodePga g' := by
  rw [← Nat.cast_le (α := Int), encodePga_eq_floor, encodePga_eq_floor]
  have hclamp := clamp_mono (show (0 : Rat) ≤ 30 by norm_num) h
  gcongr

theorem encodeMixer_eq_floor (g : Rat) :
    (encodeMixer g : Int) = ⌊(clamp g (-75 / 2) (-15 / 2) + 75 / 2) / 2 + 1 / 2⌋ := by
  have hlow : -75 / 2 ≤ clamp g (-75 / 2) (-15 / 2) := le_clamp (by norm_num) g
  have hfloor : 0 ≤ ⌊(clamp g (-75 / 2) (-15 / 2) + 75 / 2) / 2 + 1 / 2⌋ := Int.floor_nonneg.mpr (by linarith)
  exact Int.toNat_of_nonneg hfloor

theorem encodeMixer_mono {g g' : Rat} (h : g ≤ g') : encodeMixer g ≤ encodeMixer g' := by
  rw [← Nat.cast_le (α := Int), encodeMixer_eq_floor, encodeMixer_eq_floor]
  have hclamp := clamp_mono (show (-75 / 2 : Rat) ≤ -15 / 2 by norm_num) h
  gcongr

theorem encodeMixer_le (g : Rat) : encodeMixer g ≤ 15 := by
  have hclamp : clamp g (-75 / 2) (-15 / 2) ≤ -15 / 2 := clamp_le (by norm_num) g
  have hfloor : (encodeMixer g : Int) < 16 := by
    rw [encodeMixer_eq_floor, Int.floor_lt]
    push_cast
    linarith
  omega

/-! ### The DAC (R169) -/

theorem encodeDac_eq (g : Rat) : encodeDac g = if g = 0 then 3 else if g = -3 then 2 else if g = -6 then 1
    else if g = -9 then 0 else 2 := by
  simp only [encodeDac, dacTable, List.find?, eq_comm (b := g)]
  split_ifs <;> simp [*]

theorem encodeDac_le (g : Rat) : encodeDac g ≤ 3 := by
  rw [encodeDac_eq]
  split_ifs <;> decide

end Sys2Proof

namespace Sys2Proof.Machine

/-- Settles O11: the two tables row by row, and the two formulas with the clamp as a maximum and a minimum. -/
theorem gainEncoders : Obligations.GainEncoders := by
  intro g
  refine ⟨encodeLna_eq g, ?_, encodeDac_eq g, ?_⟩
  · rw [encodePga_eq_floor, clamp_eq_max_min (by norm_num)]
  · rw [encodeMixer_eq_floor, clamp_eq_max_min (by norm_num)]
    norm_num

/-- Settles O12: the bounds and the orders of the single encoders; the DAC's code falls from -100 dB to -9 dB and rises
from -9 dB to 0 dB. -/
theorem gainEncoderProperties : Obligations.GainEncoderProperties :=
  ⟨fun g => ⟨one_le_encodeLna g, encodeLna_le g, encodePga_le g, encodeDac_le g, encodeMixer_le g⟩,
    fun _ _ h => ⟨encodeLna_antitone h, encodePga_mono h, encodeMixer_mono h⟩,
    ⟨-100, -9, by norm_num, by decide +kernel⟩, -9, 0, by norm_num, by decide +kernel⟩

end Sys2Proof.Machine
end

section
/-! A controller operation that is one read-modify-write (R82, R164): what it sends and leaves where it goes through,
and what two of one register leave one after the other under `DEVICE_COHERENT`. -/

namespace Sys2Proof

theorem Reg.addr_le (reg : Reg) : reg.addr ≤ 0x13 := by cases reg <;> decide

end Sys2Proof

namespace Sys2Proof.Machine

/-- The operation checks the phase, reads the register, and writes it back updated. -/
structure Modifies (i : Instr) (reg : Reg) (update : Byte → Byte) : Prop where
  controller : i.isController = true
  program : ∀ cfg, programOf cfg i = requireReady (readModifyWrite reg update)

/-- A controller operation goes past its phase check: no stuck call holds the lock, and a session is open (R185). -/
structure Ready (s : State) : Prop where
  lockFree : s.lockFree = true
  inSession : s.inSession = true

/-- A call that returned and kept the components leaves what the next one asks for. -/
theorem Ready.of_returned {s t : State} {fs : List Frame} {side : List (Event × Bool)} {r : Result} (h : Ready s)
    (hreturned : Returned s t fs side r) (hparts : SameParts s t) : Ready t where
  lockFree := by rw [State.lockFree, hreturned.cfg, hreturned.owner]; exact h.lockFree
  inSession := by rw [State.inSession, hparts.ctl]; exact h.inSession

/-- The read of a read-modify-write leaves the device as it is, but that a hazard leaves no register known (R119,
R248). -/
theorem entered_transferred_readFrame_device (s : State) (i : Instr) (reg : Reg) :
    ((s.entered i).transferred (readFrame reg.addr)).device
      = if s.hazardNext then { s.device with regs := [] } else s.device := by
  rw [transferred_readFrame_device reg.addr_le, s.entered_hazardNext, s.entered_device]

theorem entered_transferred_hazardNext {s : State} (hz : s.hazardNext = false) (i : Instr) (tx : Frame) :
    ((s.entered i).transferred tx).hazardNext = false :=
  State.transferred_hazard _ tx ((s.entered_hazardNext i).trans hz)

/-- The effect of a read-modify-write is that of its write (R118, R123, R248). -/
theorem wroteRegs_rmw (s : State) (i : Instr) (reg : Reg) (v : Byte) :
    WroteRegs s (s.completed i (rmwFrames reg v) .unit) [(reg.addr, v)] where
  parts := s.sameParts_completed i _ .unit
  lines := s.sameLines_completed i _ .unit
  others hz a hnot := by
    have hread := entered_transferred_readFrame_device s i reg
    rw [hz, if_neg Bool.false_ne_true] at hread
    rw [State.completed_device, ← hread]
    exact read_transferred_writeFrame_of_ne reg.addr_le v (entered_transferred_hazardNext hz i _) (by simpa using hnot)
  values hz _ e he hversion hstat := by
    obtain rfl := List.mem_singleton.mp he
    rw [State.completed_device]
    exact read_transferred_writeFrame_self reg.addr_le v (entered_transferred_hazardNext hz i _) hversion hstat
  hazardous hz a hnot := by
    have hread := entered_transferred_readFrame_device s i reg
    rw [hz, if_pos rfl] at hread
    rw [State.completed_device]
    exact read_transferred_writeFrame_none reg.addr_le v (by simpa using hnot) (.inr (by rw [hread]; rfl))
  rested := s.busRested_completed i .unit (List.cons_ne_nil _ _)

section
variable {s : State} {i : Instr} {reg : Reg} {update : Byte → Byte} (h : Ready s) (hi : Modifies i reg update)
include h hi

theorem Modifies.exec_eq (hans : s.answersOk [2, 2] = true) {r : Byte} (hr : r = s.byteRead 0 1 reg.addr) :
    exec i s = .next (s.completed i (rmwFrames reg (update r)) .unit) ∧
      Returned s (s.completed i (rmwFrames reg (update r)) .unit) (rmwFrames reg (update r)) [] (.ok .unit) := by
  obtain ⟨hphase, hspi, -⟩ := State.inSession_iff.mp h.inSession
  have hopen : (s.entered i).ctl.spi.isOpen = true := by simpa [State.entered, hi.controller] using hspi
  have hanswers := (Prog.answers_readModifyWrite hopen reg update).requireReady (by simpa using hphase)
  rw [byteRead_entered, ← hr, ← hi.program s.cfg] at hanswers
  exact exec_completed h.lockFree hanswers hans

/-- The operation goes through. -/
theorem Modifies.completes (hans : s.answersOk [2, 2] = true) {r : Byte} (hr : r = s.byteRead 0 1 reg.addr) :
    ∃ t, exec i s = .next t ∧ Returned s t (rmwFrames reg (update r)) [] (.ok .unit) ∧
      WroteRegs s t [(reg.addr, update r)] :=
  have ⟨hexec, hreturned⟩ := hi.exec_eq h hans hr
  ⟨_, hexec, hreturned, wroteRegs_rmw s i reg (update r)⟩

/-- Under `DEVICE_COHERENT` the second of two read-modify-writes updates what the first one wrote (R40, R173). -/
theorem Modifies.exec_exec {j : Instr} {update' : Byte → Byte} (hj : Modifies j reg update')
    (hversion : reg.addr ≠ Reg.version.addr) (hstat : reg.addr ≠ Reg.stat.addr)
    (hcoherent : s.cfg.deviceCoherent = true) (hz : s.hazardNext = false) (hans : s.answersOk [2, 2, 2, 2] = true) :
    ∃ t u, exec i s = .next t ∧ exec j t = .next u ∧
      Memory.read reg.addr u.device.regs = some (update' (update (s.byteRead 0 1 reg.addr))) := by
  set v := update (s.byteRead 0 1 reg.addr)
  set t := s.completed i (rmwFrames reg v) .unit
  obtain ⟨hfirst, hsecond⟩ : s.answersOk [2, 2] = true ∧ t.answersOk [2, 2] = true :=
    State.answersOk_completed (fs := rmwFrames reg v) hans
  obtain ⟨hexec, hreturned⟩ := hi.exec_eq h hfirst rfl
  have hwrote : WroteRegs s t [(reg.addr, v)] := wroteRegs_rmw s i reg v
  have hzt : t.hazardNext = false := by
    rw [State.completed_hazardNext]
    exact hazardNext_sent (by rw [s.entered_hazardNext]; exact hz) _
  have hknown := hwrote.values hz (by simp) _ (List.mem_singleton_self _) hversion hstat
  have hread : v = t.byteRead 0 1 reg.addr :=
    (byteRead_known (by rw [hreturned.cfg]; exact hcoherent) hzt hknown 0 1).symm
  obtain ⟨u, hexec', -, hwrote'⟩ := hj.completes (h.of_returned hreturned hwrote.parts) hsecond hread
  exact ⟨t, u, hexec, hexec', hwrote'.values hzt (by simp) _ (List.mem_singleton_self _) hversion hstat⟩

end

end Sys2Proof.Machine
end

section
/-! The gain setters (R164, R166, R168, R170, R172): each is a read-modify-write of its field, and two of one register
keep each other's field (R173). -/

namespace Sys2Proof

/-! ### The fields of TXFE1 (R50, R101) -/

theorem dacField_insert (r : Byte) {code : Nat} (h : code ≤ 3) :
    dacField.insert r code = (r &&& 0x8F) ||| BitVec.ofNat 8 (code * 2 ^ 4) := by
  have hcode : ∀ c : Fin 4, (BitVec.ofNat 8 c.val <<< 4) &&& (0x70 : Byte) = BitVec.ofNat 8 (c.val * 2 ^ 4) := by decide
  exact congrArg ((r &&& 0x8F) ||| ·) (hcode ⟨code, by omega⟩)

theorem mixerField_insert (r : Byte) {code : Nat} (h : code ≤ 15) :
    mixerField.insert r code = (r &&& 0xF0) ||| BitVec.ofNat 8 code := by
  have hcode : ∀ c : Fin 16, (BitVec.ofNat 8 c.val <<< 0) &&& (0x0F : Byte) = BitVec.ofNat 8 c.val := by decide
  exact congrArg ((r &&& 0xF0) ||| ·) (hcode ⟨code, by omega⟩)

/-- Both fields of TXFE1 set, one after the other, keep the register's highest bit alone. -/
theorem mixerField_insert_dacField_insert (r : Byte) {dac mixer : Nat} (hdac : dac ≤ 3) (hmixer : mixer ≤ 15) :
    mixerField.insert (dacField.insert r dac) mixer
      = (r &&& 0x80) ||| BitVec.ofNat 8 (dac * 2 ^ 4) ||| BitVec.ofNat 8 mixer := by
  have hkept : ∀ c : Fin 4, BitVec.ofNat 8 (c.val * 2 ^ 4) &&& (0xF0 : Byte) = BitVec.ofNat 8 (c.val * 2 ^ 4) := by
    decide
  have hrest : (r &&& 0x8F) &&& 0xF0 = r &&& 0x80 := by rw [BitVec.and_assoc]; rfl
  rw [mixerField_insert _ hmixer, dacField_insert _ hdac, BitVec.and_or_distrib_right, hrest, hkept ⟨dac, by omega⟩]

end Sys2Proof

namespace Sys2Proof.Machine

/-! ### The four setters -/

section
variable (g : Rat)

theorem modifies_setLnaGain : Modifies (.setLnaGain g) .rxfe1 (lnaField.insert · (encodeLna g)) := ⟨rfl, fun _ => rfl⟩

theorem modifies_setPgaGain : Modifies (.setPgaGain g) .rxfe1 (pgaField.insert · (encodePga g)) := ⟨rfl, fun _ => rfl⟩

theorem modifies_setDacGain : Modifies (.setDacGain g) .txfe1 (dacField.insert · (encodeDac g)) := ⟨rfl, fun _ => rfl⟩

theorem modifies_setMixerGain : Modifies (.setMixerGain g) .txfe1 (mixerField.insert · (encodeMixer g)) :=
  ⟨rfl, fun _ => rfl⟩

end

/-- Settles O37: each setter inserts a code that fits its field. -/
theorem gainSettersComplete : Obligations.GainSettersComplete := by
  intro s g hfree hsession hans i a update r hr hsetter
  rcases hsetter with ⟨rfl, rfl, rfl⟩ | ⟨rfl, rfl, rfl⟩ | ⟨rfl, rfl, rfl⟩ | ⟨rfl, rfl, rfl⟩ <;> dsimp only
  · rw [← lnaField_insert r (encodeLna_le g)]
    exact (modifies_setLnaGain g).completes ⟨hfree, hsession⟩ hans hr
  · rw [← pgaField_insert r (encodePga_le g)]
    exact (modifies_setPgaGain g).completes ⟨hfree, hsession⟩ hans hr
  · rw [← dacField_insert r (encodeDac_le g)]
    exact (modifies_setDacGain g).completes ⟨hfree, hsession⟩ hans hr
  · rw [← mixerField_insert r (encodeMixer_le g)]
    exact (modifies_setMixerGain g).completes ⟨hfree, hsession⟩ hans hr

/-- Settles O39: the second setter inserts its code in the byte that the first one wrote. -/
theorem coherentGainPairs : Obligations.CoherentGainPairs := by
  intro s g g' hfree hsession hcoherent hz hans
  rw [← mixerField_insert_dacField_insert _ (encodeDac_le g) (encodeMixer_le g'),
    ← pgaField_insert_lnaField_insert _ (encodeLna_le g) (encodePga_le g')]
  exact ⟨(modifies_setDacGain g).exec_exec ⟨hfree, hsession⟩ (modifies_setMixerGain g') (by decide) (by decide)
      hcoherent hz hans,
    (modifies_setLnaGain g).exec_exec ⟨hfree, hsession⟩ (modifies_setPgaGain g') (by decide) (by decide)
      hcoherent hz hans⟩

end Sys2Proof.Machine
end

section
/-! The decoders of STAT and VERSION (R57, R102, R103, R197, R200). -/

namespace Sys2Proof

/-- A mask of one bit picks that bit (R102). -/
theorem statFlag_twoPow (s : Byte) {k : Nat} (h : k < 8) : statFlag s (BitVec.twoPow 8 k) = s.getLsbD k := by
  have hmask : BitVec.twoPow 8 k ≠ 0 := by
    intro hzero
    have hbit := congrArg (BitVec.getLsbD · k) hzero
    simp [h] at hbit
  rw [statFlag, BitVec.and_twoPow]
  cases s.getLsbD k with
  | true => simpa using hmask
  | false => rfl

theorem digitChar_eq {d : Nat} (h : d < 10) : digitChar d = Nat.digitChar d := by
  have key : ∀ d < 10, digitChar d = Nat.digitChar d := by decide
  exact key d h

/-- The decimal spelling is the usual one. -/
theorem decimal_eq_repr (n : Nat) : decimal n = (Nat.repr n).toList := by
  rw [Nat.toList_repr]
  refine decimal_induction (P := fun n w => w = Nat.toDigits 10 n) (fun n h => ?_) (fun n h ih => ?_) n
  · rw [Nat.toDigits_of_lt_base h, digitChar_eq h]
  · rw [Nat.toDigits_of_base_le (by decide) h, ih, digitChar_eq (Nat.mod_lt _ (by decide))]

/-- The two halves of VERSION (R103). -/
theorem version_halves (v : Byte) : (v >>> 4).toNat = v.toNat / 16 ∧ (v &&& 0x0F).toNat = v.toNat % 16 := by
  refine ⟨by rw [BitVec.toNat_ushiftRight, Nat.shiftRight_eq_div_pow], ?_⟩
  rw [BitVec.toNat_and]
  exact Nat.and_two_pow_sub_one_eq_mod v.toNat 4

end Sys2Proof

namespace Sys2Proof.Machine

/-- Settles O13: each flag's mask is one bit, and the two halves of VERSION are its quotient and remainder. -/
theorem statusAndVersionDecoders : Obligations.StatusAndVersionDecoders := by
  refine ⟨fun s => ?_, fun v => ?_⟩
  · have hflags : decodeStatus s = ⟨statFlag s (.twoPow 8 3), statFlag s (.twoPow 8 2), statFlag s (.twoPow 8 1),
        statFlag s (.twoPow 8 0)⟩ := rfl
    rw [hflags, statFlag_twoPow s (by decide), statFlag_twoPow s (by decide), statFlag_twoPow s (by decide),
      statFlag_twoPow s (by decide)]
  · obtain ⟨hmajor, hminor⟩ := version_halves v
    rw [decodeVersion, hmajor, hminor, decimal_eq_repr]
    rfl

end Sys2Proof.Machine
end

section
/-! The controller's operations on single registers: the read-modify-writes of MODE, its whole writes, the reads of one
register, and the writes of `DEFAULT_TABLE` (R188 to R193, R198, R199, R201, R206). -/

namespace Sys2Proof.Machine

section
variable {s : State} (h : Ready s)
include h

theorem Ready.entered_phase (i : Instr) : (s.entered i).ctl.phase = .ready := by
  rw [s.entered_phase]
  exact (State.inSession_iff.mp h.inSession).1

theorem Ready.entered_isOpen {i : Instr} (hi : i.isController = true) : (s.entered i).ctl.spi.isOpen = true := by
  obtain ⟨-, hopen, -⟩ := State.inSession_iff.mp h.inSession
  simpa [State.entered, hi] using hopen

end

/-! ### Enable operations (R190 to R193) -/

section
variable (on : Bool)

theorem modifies_enableRx : Modifies (.enableRx on) .mode (putModeBit · .rx on) := ⟨rfl, fun _ => rfl⟩

theorem modifies_enableTx : Modifies (.enableTx on) .mode (putModeBit · .tx on) := ⟨rfl, fun _ => rfl⟩

theorem modifies_enablePA : Modifies (.enablePA on) .mode (putModeBit · .driver on) := ⟨rfl, fun _ => rfl⟩

end

/-- Settles O38: each of the three is a read-modify-write of its bit of MODE. -/
theorem enableOperationsComplete : Obligations.EnableOperationsComplete := by
  rintro s on hfree hsession hans i mask r _ hr rfl hi
  have hready : Ready s := ⟨hfree, hsession⟩
  rcases hi with ⟨rfl, rfl⟩ | ⟨rfl, rfl⟩ | ⟨rfl, rfl⟩
  · exact (modifies_enableRx on).completes hready hans hr
  · exact (modifies_enableTx on).completes hready hans hr
  · exact (modifies_enablePA on).completes hready hans hr

/-! ### Writes of cells, one by one (R188, R206) -/

/-- The operation checks the phase, writes the cells one by one, and returns nothing. -/
structure WritesCells (s : State) (i : Instr) (es : List Host.Cell) : Prop where
  controller : i.isController = true
  answers : ∀ u : State, u.ctl.spi.isOpen = true → u.ctl.phase = .ready →
    (programOf s.cfg i).Answers u (writeFrames es) .unit
  nonempty : es ≠ []
  inRange : ∀ e ∈ es, e.1 ≤ 0x13

theorem WritesCells.completes {s : State} {i : Instr} {es : List Host.Cell} (hi : WritesCells s i es) (h : Ready s)
    (hans : s.answersOk ((writeFrames es).map List.length) = true) :
    ∃ t, exec i s = .next t ∧ Returned s t (writeFrames es) [] (.ok .unit) ∧ WroteRegs s t es :=
  have ⟨hexec, hreturned⟩ := exec_completed h.lockFree
    (hi.answers (s.entered i) (h.entered_isOpen hi.controller) (h.entered_phase i)) hans
  ⟨_, hexec, hreturned, wroteRegs_completed s i .unit hi.nonempty hi.inRange⟩

theorem writesCells_writeMode {s : State} {i : Instr} {m : Byte} (hi : i.isController = true)
    (hprog : programOf s.cfg i = writeMode m) : WritesCells s i [(Reg.mode.addr, m)] where
  controller := hi
  answers u hopen hphase := by
    rw [hprog]
    exact (Prog.answers_writeReg hopen (by decide) m).requireReady hphase
  nonempty := List.cons_ne_nil _ _
  inRange := by simp [Reg.addr_le]

theorem writesCells_defaults {s : State} (hne : s.cfg.defaultTable ≠ [])
    (hrange : ∀ e ∈ s.cfg.defaultTable, e.1 ≤ 0x13) :
    WritesCells s .initializeWithDefaults s.cfg.defaultTable where
  controller := rfl
  answers _ hopen hphase := (Prog.answers_writeTable hopen hrange).requireReady hphase
  nonempty := hne
  inRange := hrange

/-- Settles O45: `setMode` and the six pseudo-operations are each one write of MODE. -/
theorem setModeCompletes : Obligations.SetModeCompletes := by
  intro s i m hfree hsession hans hi
  obtain ⟨hctl, hprog⟩ : i.isController = true ∧ programOf s.cfg i = writeMode m := by
    simp only [List.mem_cons, List.not_mem_nil, or_false, Prod.mk.injEq, and_true] at hi
    rcases hi with rfl | ⟨rfl, rfl⟩ | ⟨rfl, rfl⟩ | ⟨rfl, rfl⟩ | ⟨rfl, rfl⟩ | ⟨rfl, rfl⟩ | ⟨rfl, rfl⟩ <;>
      exact ⟨rfl, rfl⟩
  have hframe : writeFrame Reg.mode.addr m = [0x80, m] := rfl
  rw [← hframe]
  exact (writesCells_writeMode hctl hprog).completes ⟨hfree, hsession⟩ hans

/-- Settles O47: the run is the table's writes, in order. -/
theorem defaultsComplete : Obligations.DefaultsComplete := by
  intro s hfree hsession hrange hne hans
  exact (writesCells_defaults hne hrange).completes ⟨hfree, hsession⟩
    (by simpa [writeFrames, writeFrame, Function.comp_def] using hans)

/-! ### Reads of one register (R189, R198, R199, R201) -/

/-- The operation checks the phase, reads the register, and returns what the byte stands for. -/
structure ReadsOne (i : Instr) (a : Nat) (value : Byte → Value) : Prop where
  controller : i.isController = true
  program : ∀ cfg, programOf cfg i = requireReady (readReg a fun r => .ret (value r))
  inRange : a ≤ 0x13

theorem ReadsOne.completes {s : State} {i : Instr} {a : Nat} {value : Byte → Value} (hi : ReadsOne i a value)
    (h : Ready s) (hans : s.answersOk [2] = true) :
    ∃ t, exec i s = .next t ∧ Returned s t [readFrame a] [] (.ok (value (s.byteRead 0 1 a))) ∧ ReadRegs s t := by
  have hanswers := (Prog.answers_readReg (h.entered_isOpen hi.controller) hi.inRange value).requireReady
    (h.entered_phase i)
  rw [bytesRead_readFrame _ hi.inRange, byteRead_entered, ← hi.program s.cfg] at hanswers
  obtain ⟨hexec, hreturned⟩ := exec_completed h.lockFree hanswers hans
  exact ⟨_, hexec, hreturned, readRegs_completed s i _ (as := [a]) (List.cons_ne_nil _ _) (by simp [hi.inRange])⟩

/-- Settles O46: each of the four is one read, of MODE, VERSION or STAT. -/
theorem readingOperationsComplete : Obligations.ReadingOperationsComplete := by
  intro s hfree hsession hans i a value hi
  have hready : Ready s := ⟨hfree, hsession⟩
  rcases hi with ⟨rfl, rfl, rfl⟩ | ⟨rfl, rfl, rfl⟩ | ⟨rfl, rfl, rfl⟩ | ⟨rfl, rfl, rfl⟩
  · exact ReadsOne.completes (i := .getMode) ⟨rfl, fun _ => rfl, by decide⟩ hready hans
  · exact ReadsOne.completes (i := .probe) ⟨rfl, fun _ => rfl, by decide⟩ hready hans
  · exact ReadsOne.completes (i := .getStatus) ⟨rfl, fun _ => rfl, by decide⟩ hready hans
  · exact ReadsOne.completes (i := .getVersion) ⟨rfl, fun _ => rfl, by decide⟩ hready hans

end Sys2Proof.Machine
end

section
/-! The phase of a controller (R25, R185, R186): every operation but `open` checks it first, and `open` and `close` alone
move it. -/

namespace Sys2Proof.Machine

/-! ### The phase check (R185) -/

theorem Phase.eq_notReady {p : Phase} (h : p ≠ .ready) : p = .notReady := by
  cases p with
  | notReady => rfl
  | ready => exact absurd rfl h

/-- A controller operation that is no open and no close begins with the phase check, a frequency operation after the
check of `FXOSC` (assumption 14). -/
theorem programOf_requireReady (cfg : Config) {i : Instr} (hctl : i.isController = true) (hopen : i ≠ .openController)
    (hclose : i ≠ .closeController) :
    ∃ q, programOf cfg i = requireReady q ∨ programOf cfg i = requireFxosc cfg (requireReady q) := by
  cases i with
  | openController => exact absurd rfl hopen
  | closeController => exact absurd rfl hclose
  | setRxFrequency f | setTxFrequency f | getRxFrequency | getTxFrequency => exact ⟨_, .inr rfl⟩
  | setLnaGain g | setPgaGain g | setDacGain g | setMixerGain g => exact ⟨_, .inl rfl⟩
  | setMode m | getMode | enableRx on | enableTx on | enablePA on | getStatus | getVersion | probe =>
    exact ⟨_, .inl rfl⟩
  | setTxRxSwitch on | getTxRxSwitch | resetDevice | initializeWithDefaults => exact ⟨_, .inl rfl⟩
  | setModeSleep | setModeStandby | setModeRx | setModeTx | setModeTxFull | setModeFullDuplex => exact ⟨_, .inl rfl⟩
  | _ => cases hctl

theorem Prog.run_closeSession_notReady {u : State} (hphase : u.ctl.phase ≠ .ready) :
    closeSession.run u = .done (.err ⟨.notInitialized, .notReady, []⟩) u := by
  rw [closeSession, run_uninterrupted, run_requireReady_not _ hphase]

/-- Past the check of `FXOSC` and of the phase a controller that is not ready goes nowhere (R185). -/
theorem run_programOf_notReady {cfg : Config} {i : Instr} {u : State} (hctl : i.isController = true)
    (hopen : i ≠ .openController) (hfxosc : legalFxosc cfg.fxosc = true) (hphase : u.ctl.phase ≠ .ready) :
    (programOf cfg i).run u = .done (.err ⟨.notInitialized, .notReady, []⟩) u := by
  by_cases hclose : i = .closeController
  · subst hclose
    exact Prog.run_closeSession_notReady hphase
  · obtain ⟨q, hprog | hprog⟩ := programOf_requireReady cfg hctl hopen hclose
    · rw [hprog, Prog.run_requireReady_not q hphase]
    · rw [hprog, Prog.run_requireFxosc _ hfxosc, Prog.run_requireReady_not q hphase]

/-- Settles O43: the phase check is the first step of all of them. -/
theorem notReadyRejected : Obligations.NotReadyRejected := by
  intro i s hfree hctl hopen hphase hfxosc
  rw [exec_eq_runCall hctl]
  exact runCall_done hfree (run_programOf_notReady hctl hopen hfxosc (by simp [hphase]))

/-! ### What moves the phase (R186) -/

/-- A controller operation that is no open and no close is no uninterrupted part. -/
theorem quiet_programOf (cfg : Config) {i : Instr} (hctl : i.isController = true) (hopen : i ≠ .openController)
    (hclose : i ≠ .closeController) : (programOf cfg i).Quiet (Result.endOf i.isController) := by
  rcases programOf_cases cfg i with hquiet | ⟨q', -, hwhole⟩
  · exact hquiet
  · obtain ⟨q, hprog | hprog⟩ := programOf_requireReady cfg hctl hopen hclose
    · cases hprog.symm.trans hwhole
    · rw [hwhole, requireFxosc] at hprog
      split at hprog <;> cases hprog

theorem Ran.Gives.and {Q Q' : Result → State → Prop} {S S' : State → Prop} {x : Ran} (h : x.Gives Q S)
    (h' : x.Gives Q' S') : x.Gives (fun r t => Q r t ∧ Q' r t) (fun t => S t ∧ S' t) := by
  cases x with
  | done r t => exact ⟨h, h'⟩
  | stalled t => exact ⟨h, h'⟩
  | refused e => trivial

/-- An open that fails leaves the sequencer with the lines that it held (R133, R182). -/
theorem lines_openSequencer (chip : Path) (resetPin txRxPin : Nat) (s : State) :
    ((openSequencer chip resetPin txRxPin).run s).Gives
      (fun r t => ∀ e, r = .err e → t.ctl.gpio.lines = s.ctl.gpio.lines) (fun _ => True) := by
  rw [openSequencer, Prog.run_look]
  split
  · exact fun _ _ => rfl
  · refine Prog.gives_act (gives_chipOpen chip s) (fun r₁ t₁ h₁ => ?_) fun _ _ => trivial
    have hlines₁ : t₁.ctl.gpio.lines = s.ctl.gpio.lines := by rw [h₁.ctl]; split <;> rfl
    split
    · exact fun _ _ => hlines₁
    · refine Prog.gives_act (gives_lineRequest resetPin t₁) (fun r₂ t₂ h₂ => ?_) fun _ _ => trivial
      split
      · next hr =>
        rw [if_neg (by simpa using hr)] at h₂
        refine Prog.gives_act (gives_chipRelease t₂) (fun _ t₃ h₃ _ _ => ?_) fun _ _ => trivial
        rw [h₃.ctl, h₂.ctl, hlines₁]
      · next hr =>
        rw [if_pos (by simpa using hr)] at h₂
        refine Prog.gives_act (gives_lineRequest txRxPin t₂) (fun r₃ t₃ h₃ => ?_) fun _ _ => trivial
        split
        · next hr =>
          rw [if_neg (by simpa using hr)] at h₃
          refine Prog.gives_act (gives_lineRelease resetPin t₃) (fun _ t₄ h₄ => ?_) fun _ _ => trivial
          refine Prog.gives_act (gives_chipRelease t₄) (fun _ t₅ h₅ _ _ => ?_) fun _ _ => trivial
          rw [h₅.ctl, h₄.ctl, h₃.ctl, h₂.2.ctl, ← hlines₁]
          exact List.erase_cons_head _ _
        · exact fun _ he => nomatch he

/-- What the controller's open of a controller that is not ready can do (R181, R182): it makes it ready; or it fails as a
whole, and leaves it not ready with no new line held. -/
theorem gives_openSession (cfg : Config) {s : State} (hphase : s.ctl.phase = .notReady) :
    ((openSession cfg).run s).Gives
      (fun r t => (r = .ok .unit ∧ t.ctl.phase = .ready) ∨
        (r = .err ⟨.resourceUnavailable, .openFailed, []⟩ ∧ t.ctl.phase = .notReady ∧
          t.ctl.gpio.lines = s.ctl.gpio.lines))
      (fun t => t.ctl.phase = .notReady) := by
  rw [openSession, Prog.run_uninterrupted, Prog.run_look, if_neg (by simp [hphase])]
  refine Prog.gives_bind (gives_openTransport s) ?_ fun t ht => by rw [ht.ctl]; exact hphase
  rintro r₁ t₁ (⟨⟨v, rfl⟩, h₁⟩ | ⟨⟨e, rfl⟩, h₁⟩)
  · have hphase₁ : t₁.ctl.phase = .notReady := by rw [h₁.ctl]; exact hphase
    have hlines₁ : t₁.ctl.gpio.lines = s.ctl.gpio.lines := by rw [h₁.ctl]
    refine Prog.gives_bind ((gives_openSequencer _ _ _ t₁).and (lines_openSequencer _ _ _ t₁)) ?_
      fun t ht => ht.1.phase.trans hphase₁
    rintro r₂ t₂ ⟨⟨⟨v, rfl⟩, -⟩ | ⟨⟨e, rfl⟩, h₂⟩, hlines₂⟩
    · exact .inl ⟨rfl, rfl⟩
    · have hphase₂ : t₂.ctl.phase = .notReady := by
        rcases h₂ with h₂ | h₂
        · rw [h₂.ctl, hphase₁]
        · rw [h₂.phase, hphase₁]
      refine Prog.gives_bind (gives_closeTransport t₂) (fun r₃ t₃ h₃ => ?_) fun t ht => by rw [ht.ctl]; exact hphase₂
      refine .inr ⟨rfl, ?_, ?_⟩
      · rw [h₃.ctl]; exact hphase₂
      · rw [h₃.ctl]; exact (hlines₂ e rfl).trans hlines₁
  · exact .inr ⟨rfl, by rw [h₁.ctl]; exact hphase, by rw [h₁.ctl]⟩

/-- A close that returns leaves the controller not ready (R183, R186). -/
theorem gives_closeSession (s : State) :
    (closeSession.run s).Gives (fun _ t => t.ctl.phase = .notReady) (fun _ => True) := by
  rw [closeSession, Prog.run_uninterrupted, requireReady, Prog.run_look]
  split
  · refine Prog.gives_bind (Q₁ := fun _ t => t.ctl.phase = .notReady) (S₁ := fun _ => True) ?_ (fun _ _ h => h)
      fun _ _ => trivial
    refine Prog.gives_bind (gives_closeSequencer s) (fun r₁ t₁ _ => ?_) fun _ _ => trivial
    refine Prog.gives_bind (gives_closeTransport t₁) (fun r₂ t₂ _ => ?_) fun _ _ => trivial
    rw [Prog.run_assign]
    split <;> rfl
  · next h => exact Phase.eq_notReady h

/-- What a controller operation gives, from what the run of its program gives. -/
theorem exec_gives {i : Instr} {s t : State} {Q : Result → State → Prop} {S : State → Prop}
    (hctl : i.isController = true) (h : exec i s = .next t)
    (hrun : ((programOf s.cfg i).run s.takeLock).Gives Q S) :
    (∃ r v, Q r v ∧ t = v.releaseLock.deliver r ∧ t.returns = s.returns ++ [⟨s.caller, r⟩]) ∨
      (S t ∧ t.returns = s.returns) := by
  rw [exec_eq_wholeCall, hctl] at h
  rcases wholeCall_cases h with ⟨-, ⟨r, v, hdone, rfl⟩ | ⟨v, hstalled, rfl⟩⟩
  · have hframe := SameFrame.of_done hdone
    rw [show (s.view (!true)).takeLock = s.takeLock from rfl] at hdone
    rw [hdone] at hrun
    exact .inl ⟨r, v, hrun, rfl, by simp [hframe.returns, hframe.caller]⟩
  · have hframe := SameFrame.of_stalled hstalled
    rw [show (s.view (!true)).takeLock = s.takeLock from rfl] at hstalled
    rw [hstalled] at hrun
    exact .inr ⟨hrun, by simpa using hframe.returns⟩

/-- An operation that is no open and no close leaves the phase (R186). -/
theorem phase_of_exec {i : Instr} {s t : State} (h : exec i s = .next t) (hopen : i ≠ .openController)
    (hclose : i ≠ .closeController) : t.ctl.phase = s.ctl.phase := by
  cases hctl : i.isController with
  | false =>
    obtain ⟨-, hparts, -⟩ := exec_session h
    rw [hctl, if_neg Bool.false_ne_true] at hparts
    rw [hparts]
  | true =>
    have hkeeps := keeps_phase_of_alone (cfg := s.cfg) s.ctl.phase ((quiet_programOf s.cfg hctl hopen hclose).turns _)
      s.takeLock (by simp)
    rcases exec_gives hctl h hkeeps with ⟨r, v, hphase, rfl, -⟩ | ⟨hphase, -⟩
    · simpa using hphase
    · exact hphase

/-- An open of a ready controller is refused (R181). -/
theorem exec_openController_ready {s : State} (hfree : s.lockFree = true) (hphase : s.ctl.phase = .ready) :
    exec .openController s = .next (s.rejected .resourceUnavailable .controllerAlreadyOpen) :=
  runCall_done hfree (by
    rw [progOpenController, openSession, Prog.run_uninterrupted, Prog.run_look, if_pos (by simpa using hphase),
      Prog.run_raise])

/-- A close of a controller that is not ready is refused (R184). -/
theorem exec_closeController_notReady {s : State} (hfree : s.lockFree = true) (hphase : s.ctl.phase = .notReady) :
    exec .closeController s = .next (s.rejected .notInitialized .notReady) :=
  runCall_done hfree (Prog.run_closeSession_notReady (by simp [hphase]))

/-- An operation that goes on has found the lock free (R80). -/
theorem lockFree_of_exec {i : Instr} {s t : State} (h : exec i s = .next t) : s.lockFree = true :=
  (wholeCall_cases ((exec_eq_wholeCall i s).symm.trans h)).1

/-- Settles O44: the operations but open and close are quiet, an open that goes through ends in its assignment of the
phase, and so does every close of a ready controller that returns. -/
theorem phaseMachine : Obligations.PhaseMachine := by
  refine fun i s t h => ⟨phase_of_exec h, ?_, ?_, ?_, ?_⟩
  · rintro rfl hphase
    rw [exec_openController_ready (lockFree_of_exec h) hphase] at h
    cases h
    exact hphase
  · rintro rfl hphase
    rcases exec_gives rfl h (gives_openSession s.cfg (s := s.takeLock) (by simpa using hphase)) with
      ⟨r, v, ⟨rfl, hv⟩ | ⟨rfl, hv, -⟩, rfl, hreturns⟩ | ⟨hv, hreturns⟩
    · exact iff_of_true (by simpa using hv) hreturns
    · exact iff_of_false (by simp [hv]) (by simp)
    · exact iff_of_false (by simp [hv]) (by simp [hreturns])
  · rintro rfl hphase
    rw [exec_closeController_notReady (lockFree_of_exec h) hphase] at h
    cases h
    exact hphase
  · rintro rfl hreturns
    rcases exec_gives rfl h (gives_closeSession s.takeLock) with ⟨r, v, hv, rfl, -⟩ | ⟨-, hsame⟩
    · simpa using hv
    · exact absurd hsame hreturns

end Sys2Proof.Machine
end

section
/-! The opening of a session (R181, R182, R243): the transport, then the sequencer; and what a failure leaves. -/

namespace Sys2Proof.Machine

/-! ### The state that an open looks at -/

namespace State

theorem sessionClosed_iff {s : State} : s.sessionClosed = true ↔
    s.ctl.phase = .notReady ∧ s.ctl.spi.isOpen = false ∧ s.ctl.gpio.isOpen = false := by
  simp only [sessionClosed, Bool.and_eq_true, decide_eq_true_eq, Bool.not_eq_true', and_assoc]

/-- Both lines can be acquired, and they are two (R133, R144). -/
theorem configFree_iff {s : State} : s.configFree = true ↔
    s.linesFree s.ctl.gpio s.alone.gpio s.cfg.gpioChip [s.cfg.resetLine] = true ∧
      s.linesFree s.ctl.gpio s.alone.gpio s.cfg.gpioChip [s.cfg.txrxLine] = true ∧
      s.cfg.resetLine ≠ s.cfg.txrxLine := by
  rw [configFree, linesFree_cons]
  simp only [Bool.and_eq_true, decide_eq_true_eq, and_assoc]

section
variable (s : State)

@[simp] theorem takeLock_sessionClosed : s.takeLock.sessionClosed = s.sessionClosed := by simp [sessionClosed]
@[simp] theorem takeLock_inSession : s.takeLock.inSession = s.inSession := by simp [inSession]
@[simp] theorem takeLock_configFree : s.takeLock.configFree = s.configFree := by simp [configFree, linesFree]
@[simp] theorem takeLock_openEvents : s.takeLock.openEvents = s.openEvents := by simp [openEvents]
@[simp] theorem takeLock_answersSucceed (n : Nat) : s.takeLock.answersSucceed n = s.answersSucceed n := by
  simp [answersSucceed]

end

end State

/-- A controller's call that transfers nothing, from what the run of its program has done. -/
theorem runCall_acted {q : Prog} {s t : State} {r : Result} {side : List (Event × Bool)} {n : Nat}
    (hfree : s.lockFree = true) (hrun : q.run s.takeLock = .done r t) (h : Acted s.takeLock t side n) :
    runCall q s = .next (t.releaseLock.deliver r) ∧ Returned s (t.releaseLock.deliver r) [] side r ∧
      (t.releaseLock.deliver r).alone = s.alone ∧ (t.releaseLock.deliver r).lastEnd = s.lastEnd :=
  ⟨runCall_of_run hfree hrun, returned_of_run hfree hrun (by simp [h.frames]) (by simp [h.sideEvents]),
   by simp [h.alone], by simp [h.lastEnd]⟩

/-! ### Opening and closing the transport (R114, R115) -/

namespace State

/-- The state after the transport has been opened. -/
def transportOpened (s : State) : State :=
  { (s.attempted (.spiOpen s.cfg.spiDevice 0 8 s.cfg.spiSpeedHz) true).configureSpi with
    ctl := { s.ctl with spi := .afterOpen s.cfg } }

/-- The state after the transport has been closed, whether or not its release went through. -/
def transportClosed (s : State) : State :=
  { s.attempted .spiRelease (s.answer.status == .ok) with
    ctl := { s.ctl with spi := { s.ctl.spi with isOpen := false } } }

section
variable (s : State)

@[simp] theorem transportOpened_cfg : s.transportOpened.cfg = s.cfg := rfl
@[simp] theorem transportOpened_device : s.transportOpened.device = s.device := rfl
@[simp] theorem transportOpened_now : s.transportOpened.now = s.attemptEnd := rfl
@[simp] theorem transportOpened_ctl : s.transportOpened.ctl = { s.ctl with spi := .afterOpen s.cfg } := rfl
@[simp] theorem transportClosed_device : s.transportClosed.device = s.device := rfl
@[simp] theorem transportClosed_now : s.transportClosed.now = s.attemptEnd := rfl
@[simp] theorem transportClosed_ctl :
    s.transportClosed.ctl = { s.ctl with spi := { s.ctl.spi with isOpen := false } } := rfl

theorem acted_transportOpened :
    Acted s s.transportOpened [(.spiOpen s.cfg.spiDevice 0 8 s.cfg.spiSpeedHz, true)] 1 :=
  (Acted.attempted s true rfl).assign _

theorem acted_transportClosed : Acted s s.transportClosed [(.spiRelease, s.answer.status == .ok)] 1 :=
  (Acted.attempted s _ rfl).assign _

end

end State

namespace Prog

section
variable {s : State} (hclosed : s.ctl.spi.isOpen = false)
include hclosed

theorem run_openTransport_ok (hok : s.answer.status = .ok) :
    openTransport.run s = .done (.ok .unit) s.transportOpened := by
  rw [run_openTransport, if_neg (by simp [hclosed]), hok]
  rfl

theorem run_openTransport_failed (hfailed : s.answer.status = .failed) :
    openTransport.run s = .done (.err ⟨.resourceUnavailable, .spiDeviceCannotOpen, []⟩)
      (s.attempted (.spiOpen s.cfg.spiDevice 0 8 s.cfg.spiSpeedHz) false) := by
  rw [run_openTransport, if_neg (by simp [hclosed]), hfailed]

end

/-- A transport whose release ends is closed; a failed release is the one error (R115). -/
theorem run_closeTransport_open {s : State} (hopen : s.ctl.spi.isOpen = true) (hends : s.answer.status ≠ .stalled) :
    closeTransport.run s = .done (closeResult (!(s.answer.status == .ok)).toNat) s.transportClosed := by
  rw [run_closeTransport, if_pos hopen, State.transportClosed]
  cases hstatus : s.answer.status with
  | ok | failed => rfl
  | stalled => exact absurd hstatus hends

end Prog

/-! ### The parts of an open (R181, R182) -/

namespace Prog

section
variable {cfg : Config} {s : State} (hclosed : s.sessionClosed = true)
include hclosed

/-- An open of a closed session is the transport's, and what follows on it. -/
theorem run_openSession_noTransport {t : State} {e : Error} (hspi : openTransport.run s = .done (.err e) t) :
    (openSession cfg).run s = .done (.err ⟨.resourceUnavailable, .openFailed, []⟩) t := by
  obtain ⟨hphase, -, -⟩ := State.sessionClosed_iff.mp hclosed
  rw [openSession, run_uninterrupted, run_look, if_neg (by simp [hphase]), run_bind, hspi]
  rfl

/-- A failure of the sequencer closes the transport again; the cleanup's own error is not reported (R182). -/
theorem run_openSession_noSequencer {t t' : State} {v : Value} {e : Error}
    (hspi : openTransport.run s = .done (.ok v) t)
    (hgpio : (openSequencer cfg.gpioChip cfg.resetLine cfg.txrxLine).run t = .done (.err e) t')
    (hopen : t'.ctl.spi.isOpen = true) (hends : t'.answer.status ≠ .stalled) :
    (openSession cfg).run s = .done (.err ⟨.resourceUnavailable, .openFailed, []⟩) t'.transportClosed := by
  obtain ⟨hphase, -, -⟩ := State.sessionClosed_iff.mp hclosed
  rw [openSession, run_uninterrupted, run_look, if_neg (by simp [hphase]), run_bind, hspi]
  dsimp only
  rw [run_bind, hgpio]
  dsimp only
  rw [run_bind, run_closeTransport_open hopen hends]
  rfl

/-- Where both go through the controller is ready (R181). -/
theorem run_openSession_both {t t' : State} {v v' : Value} (hspi : openTransport.run s = .done (.ok v) t)
    (hgpio : (openSequencer cfg.gpioChip cfg.resetLine cfg.txrxLine).run t = .done (.ok v') t') :
    (openSession cfg).run s = .done (.ok .unit) { t' with ctl := { t'.ctl with phase := .ready } } := by
  obtain ⟨hphase, -, -⟩ := State.sessionClosed_iff.mp hclosed
  rw [openSession, run_uninterrupted, run_look, if_neg (by simp [hphase]), run_bind, hspi]
  dsimp only
  rw [run_bind, hgpio]
  rfl

end

end Prog

/-! ### An open that goes through (R181, R243) -/

namespace State

/-- The sequencer of a session just after its open, on the configured chip and lines. -/
def gpioOpened (s : State) : Gpio := s.ctl.gpio.afterOpen s.cfg.gpioChip s.cfg.resetLine s.cfg.txrxLine

/-- The state after an open that went through. -/
def sessionOpened (s : State) : State :=
  { s.transportOpened.sequencerOpened s.cfg.gpioChip s.cfg.resetLine s.cfg.txrxLine with
    ctl := ⟨.ready, .afterOpen s.cfg, s.gpioOpened⟩ }

section
variable (s : State)

@[simp] theorem sessionOpened_ctl : s.sessionOpened.ctl = ⟨.ready, .afterOpen s.cfg, s.gpioOpened⟩ := rfl

theorem acted_sessionOpened : Acted s s.sessionOpened s.openEvents 4 :=
  (s.acted_transportOpened.trans (s.transportOpened.acted_sequencerOpened _ _ _)).assign _

theorem sessionOpened_regs : s.sessionOpened.device.regs = s.device.regs :=
  s.transportOpened.sequencerOpened_regs _ _ _

/-- Both pins are low, the reset line since some time in the open (R133, R147). -/
theorem sessionOpened_device (hne : s.cfg.resetLine ≠ s.cfg.txrxLine) :
    ∃ f, s.now ≤ f ∧ f ≤ s.sessionOpened.now ∧
      s.sessionOpened.device = { s.device.startLow f with txrxPin := false } := by
  obtain ⟨hstart, hstop⟩ := s.transportOpened.sequencerOpened_times s.cfg.gpioChip s.cfg.resetLine s.cfg.txrxLine
  exact ⟨_, s.le_attemptEnd.trans hstart, hstop, s.transportOpened.sequencerOpened_wired hne⟩

/-- The lines that a session's open requests are free where they are free before it (R133, R144). -/
theorem transportOpened_lineHeld (chip : Path) (l : Nat) : (s.transportOpened.chipOpened chip).lineHeld l =
    !s.linesFree s.ctl.gpio s.alone.gpio chip [l] := s.transportOpened.chipOpened_lineHeld chip l

end

end State

/-- The events of an open whose second line request fails (R181, R182; assumption 21). -/
def State.secondLineEvents (s : State) : List (Event × Bool) :=
  s.openEvents.take 4 ++ [(.lineRequest s.cfg.txrxLine, false), (.lineRelease s.cfg.resetLine, true),
    (.chipRelease, true), (.spiRelease, true)]

section
variable {s : State} (hclosed : s.sessionClosed = true) (hconfig : s.configFree = true)
include hclosed hconfig

theorem Prog.run_openSession_ok (hans : s.answersSucceed 4 = true) :
    (openSession s.cfg).run s = .done (.ok .unit) s.sessionOpened := by
  obtain ⟨-, hspi, hgpio⟩ := State.sessionClosed_iff.mp hclosed
  obtain ⟨hreset, htxrx, hne⟩ := State.configFree_iff.mp hconfig
  rw [State.answersSucceed_iff] at hans
  have hopened := s.acted_transportOpened
  have hchip := hopened.trans (s.transportOpened.acted_chipOpened s.cfg.gpioChip)
  have hfirst := hchip.trans (State.acted_lineRequested _ s.cfg.resetLine)
  refine Prog.run_openSession_both (v' := .unit) hclosed
    (Prog.run_openTransport_ok hspi (by rw [← s.answerAt_zero]; exact hans 0 (by decide))) ?_
  exact Prog.run_openSequencer_ok hgpio (by rw [hopened.answer]; exact hans 1 (by decide))
    (replies_lineRequest (by rw [State.transportOpened_lineHeld, hreset]; rfl)
      (by rw [hchip.answer]; exact hans 2 (by decide)))
    (replies_lineRequest (by
        rw [State.lineRequested_lineHeld, State.transportOpened_lineHeld, htxrx]; simpa using hne.symm)
      (by rw [hfirst.answer]; exact hans 3 (by decide)))

/-- The second line is not granted: what was acquired is released in reverse order, the transport last (R182). -/
theorem Prog.run_openSession_noSecond (hans : s.answersSucceed 3 = true) (hfailed : (s.answerAt 3).status = .failed)
    (hreleases : ∀ k, 4 ≤ k → k < 7 → (s.answerAt k).status = .ok) :
    ∃ t, (openSession s.cfg).run s = .done (.err ⟨.resourceUnavailable, .openFailed, []⟩) t ∧
      Acted s t s.secondLineEvents 7 := by
  obtain ⟨-, hspi, hgpio⟩ := State.sessionClosed_iff.mp hclosed
  obtain ⟨hreset, -, -⟩ := State.configFree_iff.mp hconfig
  rw [State.answersSucceed_iff] at hans
  have hopened := s.acted_transportOpened
  have hchip := hopened.trans (s.transportOpened.acted_chipOpened s.cfg.gpioChip)
  have hfirst := hchip.trans (State.acted_lineRequested _ s.cfg.resetLine)
  have hsecond := hfirst.trans (Acted.attempted _ (ev := .lineRequest s.cfg.txrxLine) false rfl)
  generalize ht : (State.attempted _ (.lineRequest s.cfg.txrxLine) false) = t at hsecond
  have hline : t.answer.status = .ok := by rw [hsecond.answer]; exact hreleases 4 (by decide) (by decide)
  have hlineReleased := hsecond.trans (State.acted_lineReleased_ok s.cfg.resetLine hline)
  have hrelease : (t.lineReleased s.cfg.resetLine).answer.status = .ok := by
    rw [hlineReleased.answer]; exact hreleases 5 (by decide) (by decide)
  have hchipReleased := hlineReleased.trans (State.acted_chipReleased_ok hrelease)
  have hrun := Prog.run_openSequencer_noSecond (s := s.transportOpened) (chip := s.cfg.gpioChip)
    (l₁ := s.cfg.resetLine) (l₂ := s.cfg.txrxLine) (t := t) hgpio
    (by rw [hopened.answer]; exact hans 1 (by decide))
    (replies_lineRequest (by rw [State.transportOpened_lineHeld, hreset]; rfl)
      (by rw [hchip.answer]; exact hans 2 (by decide)))
    (ht ▸ replies_lineRequest_failed (by rw [hfirst.answer, hfailed]; decide) (.inl (by rw [hfirst.answer]; exact hfailed)))
    hline (by rw [hsecond.answers]; exact hreleases 5 (by decide) (by decide))
  have hstatus : ((t.lineReleased s.cfg.resetLine).chipReleased).answer.status = .ok := by
    rw [hchipReleased.answer]; exact hreleases 6 (by decide) (by decide)
  have hclosing := State.acted_transportClosed (t.lineReleased s.cfg.resetLine).chipReleased
  rw [hstatus] at hclosing
  refine ⟨_, Prog.run_openSession_noSequencer hclosed
    (Prog.run_openTransport_ok hspi (by rw [← s.answerAt_zero]; exact hans 0 (by decide))) hrun ?_ (by simp [hstatus]),
    hchipReleased.trans hclosing⟩
  subst ht
  simp [Transport.afterOpen]

end

/-- Settles O40: the transport is opened, then the sequencer, whose first request drives the reset line low. -/
theorem openCompletes : Obligations.OpenCompletes := by
  intro s hfree hclosed hconfig hans
  obtain ⟨-, -, hne⟩ := State.configFree_iff.mp hconfig
  have hrun := Prog.run_openSession_ok (s := s.takeLock) (by simpa using hclosed) (by simpa using hconfig)
    (by simpa using hans)
  have hacted := s.takeLock.acted_sessionOpened
  rw [s.takeLock_cfg] at hrun
  rw [s.takeLock_openEvents] at hacted
  obtain ⟨hexec, hreturned, halone, hend⟩ := runCall_acted hfree hrun hacted
  obtain ⟨f, hstart, hstop, hdevice⟩ := s.takeLock.sessionOpened_device (by simpa using hne)
  rw [s.takeLock_now] at hstart
  rw [s.takeLock_device] at hdevice
  refine ⟨_, hexec, hreturned, ?_, halone, hend, ?_⟩
  · simp [State.gpioOpened, Gpio.afterOpen, Transport.afterOpen]
  · rw [State.deliver_device, State.releaseLock_device, State.deliver_now, State.releaseLock_now, hdevice]
    exact ⟨rfl, rfl, rfl, rfl, fun hhigh => ⟨f, Device.fallen_high _ hhigh.symm, hstart, hstop⟩⟩

/-! ### An open that fails (R182) -/

/-- A primitive that moves no register: any but a transfer and a line write. -/
def Prim.sparesRegs : Prim → Prop
  | .xfer _ => False
  | .lineSet _ _ => False
  | _ => True

/-- Requests and releases of lines move no register (R243, R257). -/
theorem perform_regs {p : Prim} (hp : p.sparesRegs) (s : State) :
    (p.perform s).state.device.regs = s.device.regs := by
  have key : ∀ (possible : Bool) (ev : Event) (onOk onFail onStall : State → State),
      (∀ u, (onOk u).device.regs = u.device.regs) → (∀ u, (onFail u).device.regs = u.device.regs) →
      (∀ u, (onStall u).device.regs = u.device.regs) →
      (attempt possible ev onOk onFail onStall s).state.device.regs = s.device.regs := by
    intro possible ev onOk onFail onStall hok hfail hstall
    rcases attempt_cases possible ev onOk onFail onStall s with ⟨_, e⟩ | ⟨_, t, rfl, e⟩ | ⟨_, _, t, rfl, e⟩ <;> rw [e]
    · exact hstall _
    · exact hfail _
    · exact hok _
  have requested : ∀ (u : State) (l : Nat), (u.startLine l).device.regs = u.device.regs :=
    fun u l => State.wire_regs (f := fun d => d.startLow u.now) false rfl l
  have released : ∀ (u : State) (l : Nat) (b : Bool), (u.floatLine l b).device.regs = u.device.regs :=
    fun u l b => State.wire_regs (f := fun d => d.float u.now b) b rfl l
  cases p with
  | xfer | lineSet => exact hp.elim
  | look | assign | gap | hold => rfl
  | lineGet pin =>
    simp only [Prim.perform]
    rcases getLine_cases s with e | ⟨_, e⟩ <;> rw [e] <;> rfl
  | spiOpen | spiRelease | chipOpen | chipRelease =>
    simp only [Prim.perform]
    exact key _ _ _ _ _ (fun _ => rfl) (fun _ => rfl) (fun _ => rfl)
  | lineRequest l =>
    simp only [Prim.perform]
    refine key _ _ _ _ _ (fun u => requested _ l) (fun _ => rfl) fun u => ?_
    split
    · rfl
    · exact released u l _
  | lineRelease l =>
    simp only [Prim.perform]
    exact key _ _ _ _ _ (fun u => released _ l _) (fun u => released _ l _) (fun u => released u l _)

theorem sparesRegs_openTransport : openTransport.Acts Prim.sparesRegs :=
  .look trivial fun _ => .ite (fun _ => trivial) fun _ =>
    ⟨trivial, fun _ => .ite (fun _ => ⟨trivial, fun _ => trivial⟩) fun _ => trivial⟩

theorem sparesRegs_closeTransport : closeTransport.Acts Prim.sparesRegs :=
  .look trivial fun _ => .ite
    (fun _ => ⟨trivial, fun _ => ⟨trivial, fun _ => .ite (fun _ => trivial) fun _ => trivial⟩⟩) fun _ => trivial

theorem sparesRegs_openSequencer (chip : Path) (resetPin txRxPin : Nat) :
    (openSequencer chip resetPin txRxPin).Acts Prim.sparesRegs :=
  .look trivial fun _ => .ite (fun _ => trivial) fun _ => ⟨trivial, fun _ => .ite (fun _ => trivial) fun _ =>
    ⟨trivial, fun _ => .ite (fun _ => ⟨trivial, fun _ => trivial⟩) fun _ =>
      ⟨trivial, fun _ => .ite (fun _ => ⟨trivial, fun _ => ⟨trivial, fun _ => trivial⟩⟩) fun _ =>
        ⟨trivial, fun _ => ⟨trivial, fun _ => ⟨trivial, fun _ => ⟨trivial, fun _ => trivial⟩⟩⟩⟩⟩⟩⟩

theorem sparesRegs_openSession (cfg : Config) : (openSession cfg).Acts Prim.sparesRegs := by
  refine .uninterrupted <| .look trivial fun c => .ite (fun _ => trivial) fun _ => ?_
  refine sparesRegs_openTransport.bind fun r₁ => ?_
  cases r₁ with
  | err e => trivial
  | ok v =>
    refine (sparesRegs_openSequencer _ _ _).bind fun r₂ => ?_
    cases r₂ with
    | err e => exact sparesRegs_closeTransport.bind fun _ => trivial
    | ok v => exact ⟨trivial, fun _ => trivial⟩

/-- An open moves no register, whatever comes of it (R243). -/
theorem regs_openSession (cfg : Config) (s : State) :
    ((openSession cfg).run s).Gives (fun _ t => t.device.regs = s.device.regs)
      (fun t => t.device.regs = s.device.regs) :=
  Ran.gives_state.mpr fun _ ht =>
    Prog.run_keeps (P := fun u => u.device.regs = s.device.regs) (fun _ u hp hu => (perform_regs hp u).trans hu)
      (sparesRegs_openSession cfg) rfl ht

section
variable {s : State} (hclosed : s.sessionClosed = true)
include hclosed

/-- An open that fails is a `ResourceUnavailable`, and leaves the session closed with no new line held (R182). -/
theorem exec_openController_fails {t : State} {e : Error} (h : exec .openController s = .next t)
    (hreturns : t.returns = s.returns ++ [⟨s.caller, .err e⟩]) :
    e.kind = .resourceUnavailable ∧ t.sessionClosed = true ∧ t.ctl.gpio.lines = s.ctl.gpio.lines ∧
      t.alone = s.alone ∧ t.device.regs = s.device.regs := by
  obtain ⟨hphase, hspi, hgpio⟩ := State.sessionClosed_iff.mp hclosed
  have hwhole : s.takeLock.ctl.isWhole = true := by simp [Controller.isWhole, hphase, hspi, hgpio]
  have hgives := (gives_openSession s.cfg (s := s.takeLock) (by simpa using hphase)).and
    ((isWhole_openSession s.cfg s.takeLock hwhole).and (regs_openSession s.cfg s.takeLock))
  obtain ⟨-, halone, -⟩ := exec_session h
  rcases exec_gives rfl h hgives with ⟨r, v, ⟨hend, hv, hregs⟩, rfl, hreturned⟩ | ⟨-, hreturned⟩
  · rw [hreturned] at hreturns
    obtain rfl : r = .err e := by simpa using hreturns
    obtain ⟨hok, -⟩ | ⟨herr, hphase', hlines⟩ := hend
    · cases hok
    · cases herr
      obtain ⟨hspi', hgpio'⟩ := (Controller.isWhole_closed (by simp [hphase'])).mp hv
      exact ⟨rfl, State.sessionClosed_iff.mpr ⟨by simpa using hphase', by simpa using hspi', by simpa using hgpio'⟩,
        by simpa using hlines, halone, by simpa using hregs⟩
  · simp [hreturned] at hreturns

variable (hfree : s.lockFree = true)
include hfree

/-- A missing SPI device ends the open before any line event (R181). -/
theorem exec_openController_noTransport (hfailed : s.answer.status = .failed) :
    ∃ t, exec .openController s = .next t ∧
      Returned s t [] [(.spiOpen s.cfg.spiDevice 0 8 s.cfg.spiSpeedHz, false)]
        (.err ⟨.resourceUnavailable, .openFailed, []⟩) ∧ SameParts s t ∧ t.device = s.device := by
  obtain ⟨-, hspi, -⟩ := State.sessionClosed_iff.mp hclosed
  have hrun := Prog.run_openSession_noTransport (cfg := s.cfg) (s := s.takeLock) (by simpa using hclosed)
    (Prog.run_openTransport_failed (by simpa using hspi) (by simpa using hfailed))
  have hacted := Acted.attempted s.takeLock (ev := .spiOpen s.cfg.spiDevice 0 8 s.cfg.spiSpeedHz) false rfl
  rw [s.takeLock_cfg] at hrun
  obtain ⟨hexec, hreturned, halone, -⟩ := runCall_acted hfree hrun hacted
  exact ⟨_, hexec, hreturned, ⟨by simp, halone⟩, by simp⟩

theorem exec_openController_noSecond (hconfig : s.configFree = true) (hans : s.answersSucceed 3 = true)
    (hfailed : (s.answerAt 3).status = .failed) (hreleases : ∀ k, 4 ≤ k → k < 7 → (s.answerAt k).status = .ok) :
    ∃ t, exec .openController s = .next t ∧
      Returned s t [] s.secondLineEvents (.err ⟨.resourceUnavailable, .openFailed, []⟩) := by
  obtain ⟨t, hrun, hacted⟩ := Prog.run_openSession_noSecond (s := s.takeLock) (by simpa using hclosed)
    (by simpa using hconfig) (by simpa using hans) (by simpa using hfailed) (by simpa using hreleases)
  have hevents : s.takeLock.secondLineEvents = s.secondLineEvents := by simp [State.secondLineEvents]
  rw [s.takeLock_cfg] at hrun
  rw [hevents] at hacted
  obtain ⟨hexec, hreturned, -⟩ := runCall_acted hfree hrun hacted
  exact ⟨_, hexec, hreturned⟩

end

/-- Settles O41: whatever fails, the run ends in the one error, and what it has acquired is released. -/
theorem openFailures : Obligations.OpenFailures := fun _ hfree =>
  ⟨exec_openController_ready hfree, fun hclosed _ _ => exec_openController_fails hclosed,
   fun hclosed => exec_openController_noTransport hclosed hfree,
   fun hclosed => exec_openController_noSecond hclosed hfree⟩

end Sys2Proof.Machine
end

section
/-! The closing of a session (R183, R184, R257): the sequencer, then the transport, whatever fails. -/

namespace Sys2Proof.Machine

/-! ### What a close returns (R183, R219) -/

/-- The result of a controller's close with this many failed releases: even one is a composite. -/
def sessionResult : Nat → Result
  | 0 => .ok .unit
  | n + 1 => .err ⟨.compositeCloseError, .closeErrors, List.replicate (n + 1) .transportFailure⟩

theorem sessionResult_inController (n : Nat) : (sessionResult n).inController = sessionResult n := by
  cases n <;> rfl

/-- The members of the sequencer's own composite are the controller's, one by one (R183). -/
theorem errors_closeResult (n : Nat) : (closeResult n).errors = List.replicate n .transportFailure := by
  rcases n with _ | _ | n <;> rfl

/-- Of four answers that are no stalls, the last one is a failure if it is no success. -/
theorem countP_failed_four {s : State} (h : (s.answerAt 3).status ≠ .stalled) :
    ((List.range 4).countP fun k => (s.answerAt k).status == .failed) =
      ((List.range 3).countP fun k => (s.answerAt k).status == .failed) + (!((s.answerAt 3).status == .ok)).toNat := by
  rw [List.range_succ, List.countP_append, List.countP_singleton]
  cases hstatus : (s.answerAt 3).status with
  | ok | failed => rfl
  | stalled => exact absurd hstatus h

/-! ### The run of a close -/

namespace State

/-- The state after a controller's close. -/
def sessionEnded (s : State) : State :=
  { s.sequencerClosed.transportClosed with
    ctl := ⟨.notReady, { s.ctl.spi with isOpen := false }, s.gpioClosed⟩ }

section
variable (s : State)

@[simp] theorem sequencerClosed_ctl : s.sequencerClosed.ctl = { s.ctl with gpio := s.gpioClosed } := rfl

@[simp] theorem sessionEnded_ctl :
    s.sessionEnded.ctl = ⟨.notReady, { s.ctl.spi with isOpen := false }, s.gpioClosed⟩ := rfl

@[simp] theorem sessionEnded_device : s.sessionEnded.device = s.sequencerClosed.device := rfl

@[simp] theorem gpioClosed_takeLock : s.takeLock.gpioClosed = s.gpioClosed := by simp [gpioClosed]

theorem acted_sessionEnded : Acted s s.sessionEnded
    [(.lineRelease s.ctl.gpio.txrxLine, (s.answerAt 0).status == .ok),
     (.lineRelease s.ctl.gpio.resetLine, (s.answerAt 1).status == .ok),
     (.chipRelease, (s.answerAt 2).status == .ok), (.spiRelease, (s.answerAt 3).status == .ok)] 4 := by
  have hclosing := s.sequencerClosed.acted_transportClosed
  rw [s.acted_sequencerClosed.answer] at hclosing
  exact (s.acted_sequencerClosed.trans hclosing).assign _

/-- The reset line is released during the close. -/
theorem sessionEnded_times : s.now ≤ (s.lineReleased s.ctl.gpio.txrxLine).attemptEnd ∧
    (s.lineReleased s.ctl.gpio.txrxLine).attemptEnd ≤ s.sessionEnded.now := by
  obtain ⟨hstart, hstop⟩ := s.sequencerClosed_times
  exact ⟨hstart, hstop.trans s.sequencerClosed.le_attemptEnd⟩

end

end State

/-- A close of an open session whose releases all end (R183). -/
theorem Prog.run_closeSession {s : State} (hsession : s.inSession = true)
    (hends : ∀ k < 4, (s.answerAt k).status ≠ .stalled) :
    closeSession.run s
      = .done (sessionResult ((List.range 4).countP fun k => (s.answerAt k).status == .failed)) s.sessionEnded := by
  obtain ⟨hphase, hspi, hgpio⟩ := State.inSession_iff.mp hsession
  have hanswer := s.acted_sequencerClosed.answer
  rw [countP_failed_four (hends 3 (by decide)), closeSession, run_uninterrupted, run_requireReady _ hphase, run_bind,
    run_closeSequencer hgpio fun k hk => hends k (by omega)]
  dsimp only
  rw [run_bind, run_closeTransport_open (s := s.sequencerClosed) hspi (by rw [hanswer]; exact hends 3 (by decide)),
    hanswer]
  simp only [run_assign, errors_closeResult, List.replicate_append_replicate]
  generalize List.countP _ _ + _ = n
  cases n <;> rfl

/-- On the wired lines a close leaves the reset line at the platform's level, and a fall in it is one of the line
(R146, R248). -/
theorem sessionEnded_wired {u : State} (hwired : u.ctl.gpio.isWired u.cfg = true) :
    u.sessionEnded.device.resetPin = (u.answerAt 1).level ∧
      (u.device.resetPin = true → u.sessionEnded.device.resetPin = false →
        ∃ f, u.sessionEnded.device.fell = some f ∧ u.now ≤ f ∧ f ≤ u.sessionEnded.now) := by
  obtain ⟨hstart, hstop⟩ := u.sessionEnded_times
  rw [u.sessionEnded_device, u.sequencerClosed_wired hwired]
  refine ⟨rfl, fun hhigh hlow => ⟨_, ?_, hstart, hstop⟩⟩
  rw [Device.float_resetPin] at hlow
  rw [hlow]
  exact Device.float_fell_of_high _ _ hhigh

/-! ### The call of a close -/

/-- Settles O42: the four releases are attempted in turn, and of the device they move only the lines. -/
theorem closeOutcomes : Obligations.CloseOutcomes := by
  refine fun s hfree => ⟨exec_closeController_notReady hfree, fun hsession hends => ?_⟩
  have hrun := Prog.run_closeSession (s := s.takeLock) (by simpa using hsession) (by simpa using hends)
  have hacted := s.takeLock.acted_sessionEnded
  simp only [State.answerAt_takeLock, State.takeLock_ctl] at hrun hacted
  obtain ⟨hexec, hreturned, halone, hend⟩ := runCall_acted hfree hrun hacted
  refine ⟨_, hexec, ?_, ?_, halone, ?_, hend, fun hwired => ?_⟩
  · revert hreturned
    generalize ((List.range 4).countP fun k => (s.answerAt k).status == .failed) = n
    cases n <;> exact id
  · simp [State.sessionClosed, State.gpioClosed]
  · simp [State.sequencerClosed_regs]
  · obtain ⟨hlevel, hfell⟩ := sessionEnded_wired (u := s.takeLock) (by simpa using hwired)
    rw [s.takeLock_device, s.takeLock_now] at hfell
    rw [s.answerAt_takeLock] at hlevel
    rw [State.deliver_device, State.releaseLock_device, State.deliver_now, State.releaseLock_now]
    exact ⟨hlevel, fun hhigh n => Device.hazard_of_high n hhigh, hfell⟩

end Sys2Proof.Machine
end

section
/-! A run does not look at the results returned so far (R213), so that the calls of one caller, one after another, are
the runs that one uninterrupted call would make of them (R80, R208). -/

namespace Sys2Proof.Machine

/-! ### The results returned do not matter to a run -/

/-- The state with other results returned so far. -/
def State.withReturns (s : State) (rs : List Return) : State := { s with returns := rs }

/-- A primitive's outcome, with other results returned so far. -/
def Performed.withReturns (rs : List Return) : Performed → Performed
  | .replied r s => .replied r (s.withReturns rs)
  | .stalled s => .stalled (s.withReturns rs)

/-- A run's end, with other results returned so far. -/
def Ran.withReturns (rs : List Return) : Ran → Ran
  | .done r s => .done r (s.withReturns rs)
  | .stalled s => .stalled (s.withReturns rs)
  | .refused r => .refused r

section
variable (rs : List Return)

theorem State.wire_withReturns (s : State) (line : Nat) (onReset : Device → Device) (level : Bool) :
    (s.withReturns rs).wire line onReset level = (s.wire line onReset level).withReturns rs := by
  simp only [wire, apply_ite (State.withReturns · rs)]
  rfl

theorem State.disturbLine_withReturns (s : State) (line : Nat) (level : Bool) :
    (s.withReturns rs).disturbLine line level = (s.disturbLine line level).withReturns rs := by
  simp only [disturbLine, apply_ite (State.withReturns · rs), moveLine, ← wire_withReturns]
  rfl

theorem attempt_withReturns {possible : Bool} {ev : Event} {onOk onFail onStall : State → State}
    (hok : ∀ u : State, onOk (u.withReturns rs) = (onOk u).withReturns rs)
    (hfail : ∀ u : State, onFail (u.withReturns rs) = (onFail u).withReturns rs)
    (hstall : ∀ u : State, onStall (u.withReturns rs) = (onStall u).withReturns rs) (s : State) :
    attempt possible ev onOk onFail onStall (s.withReturns rs)
      = (attempt possible ev onOk onFail onStall s).withReturns rs := by
  have hanswer : (s.withReturns rs).answer = s.answer := rfl
  simp only [attempt, hanswer]
  cases outcome s.answer possible with
  | ok => exact congrArg (fun u : State => Performed.replied ⟨s.answer, u.ctl⟩ u) (hok (s.attempted ev true))
  | failed =>
    exact congrArg (fun u : State => Performed.replied ⟨{ s.answer with status := .failed }, u.ctl⟩ u)
      (hfail (s.attempted ev false))
  | stalled => exact congrArg Performed.stalled (hstall { s.consume with now := s.now + s.answer.before })

/-- What a primitive does, it does whatever has been returned. -/
theorem perform_withReturns (p : Prim) (s : State) :
    p.perform (s.withReturns rs) = (p.perform s).withReturns rs := by
  have keep : ∀ u : State, id (u.withReturns rs) = (id u).withReturns rs := fun _ => rfl
  cases p with
  | look | assign | gap | hold => rfl
  | xfer tx =>
    have hanswer : (s.withReturns rs).answer = s.answer := rfl
    have hbus : (s.withReturns rs).consume.awaitBus = s.consume.awaitBus.withReturns rs := by
      simp only [State.awaitBus, apply_ite (State.withReturns · rs)]
      rfl
    simp only [Prim.perform, exchange, hanswer, hbus]
    cases s.answer.status <;> rfl
  | lineGet pin =>
    have houtcome : outcome (s.withReturns rs).answer (s.withReturns rs).ctl.gpio.isOpen
        = outcome s.answer s.ctl.gpio.isOpen := rfl
    simp only [Prim.perform, getLine, houtcome]
    cases outcome s.answer s.ctl.gpio.isOpen <;> rfl
  | lineSet pin level =>
    simp only [Prim.perform, setLine]
    refine attempt_withReturns rs (fun u => ?_) (fun u => ?_) (fun u => ?_) s
    · exact congrArg (State.write · (.gpioLevel pin level)) (u.wire_withReturns rs _ _ _)
    · exact u.disturbLine_withReturns rs _ _
    · exact u.disturbLine_withReturns rs _ _
  | spiOpen | chipOpen => simp only [Prim.perform]; exact attempt_withReturns rs (fun _ => rfl) keep keep s
  | spiRelease | chipRelease => simp only [Prim.perform]; exact attempt_withReturns rs keep keep keep s
  | lineRequest line =>
    simp only [Prim.perform]
    refine attempt_withReturns rs (fun u => ?_) keep (fun u => ?_) s
    · exact State.wire_withReturns rs ((u.setLines (line :: u.ctl.gpio.lines)).emit u.now u.now _ true) _ _ _
    · rw [apply_ite (State.withReturns · rs), ← State.wire_withReturns]
      rfl
  | lineRelease line =>
    simp only [Prim.perform]
    exact attempt_withReturns rs (fun u => State.wire_withReturns rs (u.setLines (u.ctl.gpio.lines.erase line)) _ _ _)
      (fun u => State.wire_withReturns rs (u.setLines (u.ctl.gpio.lines.erase line)) _ _ _)
      (fun u => u.wire_withReturns rs _ _ _) s

/-- What a run does, it does whatever has been returned. -/
theorem Prog.run_withReturns (q : Prog) (s : State) : q.run (s.withReturns rs) = (q.run s).withReturns rs := by
  induction q generalizing s with
  | done | refuse => rfl
  | act p k ih =>
    simp only [run, perform_withReturns]
    cases p.perform s with
    | replied r t => exact ih r t
    | stalled t => rfl
  | whole q k ihq ih =>
    simp only [run, ihq]
    cases q.run s with
    | done r t => exact ih r t
    | stalled t => rfl
    | refused e => rfl

end

/-! ### Calls one after another, and one call -/

/-- In `v`, inside a call that holds the lock, the work is as far as the calls one after another have come in `s`, with
the lock free: taking the lock in `s` gives `v`, but for the results returned. -/
structure Inside (s v : State) : Prop where
  lockFree : s.lockFree = true
  locked : s.takeLock = v.withReturns s.returns

theorem inside_takeLock {s : State} (hfree : s.lockFree = true) : Inside s s.takeLock :=
  ⟨hfree, by rw [← s.takeLock_returns]; rfl⟩

section
variable {s v w : State} {q : Prog} {r : Result} (h : Inside s v)
include h

theorem Inside.cfg : v.cfg = s.cfg := (congrArg State.cfg h.locked).symm.trans s.takeLock_cfg

theorem Inside.caller : v.caller = s.caller := (congrArg State.caller h.locked).symm.trans s.takeLock_caller

theorem Inside.owner (hser : s.cfg.serialized = true) : v.owner = some s.caller := by
  have := congrArg State.owner h.locked
  rw [State.takeLock, if_pos hser] at this
  exact this.symm

/-- The call that returns next leaves the lock free, and the one call goes on inside (R80, R226). -/
theorem Inside.returned (hrun : q.run v = .done r w) :
    Inside ((w.withReturns s.returns).releaseLock.deliver r) w := by
  have hframe := SameFrame.of_done hrun
  have hcfg : w.cfg = s.cfg := hframe.cfg.trans h.cfg
  cases hser : s.cfg.serialized with
  | false =>
    have hw : w.cfg.serialized = false := by rw [hcfg, hser]
    constructor
    · simp [State.lockFree, State.withReturns, hw]
    · simp [State.takeLock, State.releaseLock, State.deliver, State.withReturns, hw]
  | true =>
    have hw : w.cfg.serialized = true := by rw [hcfg, hser]
    have howner : w.owner = some w.caller := by rw [hframe.owner, hframe.caller, h.owner hser, h.caller]
    constructor
    · simp [State.lockFree, State.releaseLock, State.withReturns, hw]
    · simp [State.takeLock, State.releaseLock, State.deliver, State.withReturns, hw, ← howner]

/-- The call that comes next is the run that the one call makes of it. -/
theorem Inside.runCall_cases {t : State} (hcall : runCall q s = .next t) :
    (∃ r w, q.run v = .done r w ∧ t = (w.withReturns s.returns).releaseLock.deliver r ∧
      t.returns = s.returns ++ [⟨s.caller, r⟩]) ∨
    (∃ w, q.run v = .stalled w ∧ t = w.withReturns s.returns ∧ t.returns = s.returns) := by
  have hrun := Prog.run_withReturns s.returns q v
  rw [← h.locked] at hrun
  cases hq : q.run v with
  | done r w =>
    rw [hq] at hrun
    cases (runCall_of_run h.lockFree hrun).symm.trans hcall
    have hcaller : w.caller = s.caller := (SameFrame.of_done hq).caller.trans h.caller
    exact .inl ⟨r, w, rfl, rfl, by simp [State.withReturns, hcaller]⟩
  | stalled w =>
    rw [hq] at hrun
    cases (runCall_of_stall h.lockFree hrun).symm.trans hcall
    exact .inr ⟨w, rfl, rfl, rfl⟩
  | refused e =>
    rw [hq] at hrun
    cases (runCall_of_refuse h.lockFree hrun).symm.trans hcall

end

/-- What the one call returns in the place of the last of the calls. -/
theorem withReturns_releaseLock_deliver (w : State) (rs rs' : List Return) (r r' : Result)
    (hrs : rs' = w.returns ++ [⟨w.caller, r'⟩]) :
    ((w.withReturns rs).releaseLock.deliver r).withReturns rs' = w.releaseLock.deliver r' := by
  subst hrs
  cases hser : w.cfg.serialized <;> simp [State.releaseLock, State.deliver, State.withReturns, hser]

end Sys2Proof.Machine
end

section
/-! The scoped lifecycle (R208, R209, R252). -/

namespace Sys2Proof.Machine

/-! ### The run of a scoped call -/

/-- What a scoped call returns, from the operation's result and the close's (R208). -/
def scopedResult : Result → Result → Result
  | .ok v, .ok _ => .ok v
  | .ok _, .err e => .err e
  | .err e, .ok _ => .err e
  | .err e, .err e' => .err ⟨.compositeCloseError, .closeErrors, e.flatten ++ e'.flatten⟩

theorem scopedResult_ok (r : Result) (v : Value) : scopedResult r (.ok v) = r := by cases r <;> rfl

namespace Prog

section
variable {cfg : Config} {i : Instr} {s t u v : State} {x : Value} {r c : Result} {e : Error}

theorem run_progScoped_openFails (hopen : (openSession cfg).run s = .done (.err e) t) :
    (progScoped cfg i).run s = .done (.err e) t := by
  rw [progScoped, run_bind, hopen]
  rfl

theorem run_progScoped_openStalls (hopen : (openSession cfg).run s = .stalled t) :
    (progScoped cfg i).run s = .stalled t := by
  rw [progScoped, run_bind, hopen]

variable (hopen : (openSession cfg).run s = .done (.ok x) t)
include hopen

theorem run_progScoped_stalls (hop : (programOf cfg i).run t = .stalled u) :
    (progScoped cfg i).run s = .stalled u := by
  rw [progScoped, run_bind, hopen]
  dsimp only
  rw [run_bind, hop]

theorem run_progScoped_closeStalls (hop : (programOf cfg i).run t = .done r u) (hclose : closeSession.run u = .stalled v) :
    (progScoped cfg i).run s = .stalled v := by
  rw [progScoped, run_bind, hopen]
  dsimp only
  rw [run_bind, hop]
  dsimp only
  rw [run_bind, hclose]

theorem run_progScoped_done (hop : (programOf cfg i).run t = .done r u) (hclose : closeSession.run u = .done c v) :
    (progScoped cfg i).run s = .done (scopedResult r c) v := by
  rw [progScoped, run_bind, hopen]
  dsimp only
  rw [run_bind, hop]
  dsimp only
  rw [run_bind, hclose]
  cases r <;> cases c <;> rfl

end

/-- An open that succeeds returns nothing. -/
theorem eq_unit_of_run_openSession {cfg : Config} {s t : State} {x : Value}
    (h : (openSession cfg).run s = .done (.ok x) t) : x = .unit := by
  by_cases hphase : s.ctl.phase = .ready
  · rw [openSession, run_uninterrupted, run_look, if_pos hphase] at h
    cases h
  · have hgives := gives_openSession cfg (Phase.eq_notReady hphase)
    rw [h] at hgives
    rcases hgives with ⟨hok, -⟩ | ⟨herr, -⟩
    · cases hok; rfl
    · cases herr

end Prog

/-! ### The scoped call and the three calls (R208) -/

section
variable {i : Instr} {s s₁ : State} (hopen : exec .openController s = .next s₁)
include hopen

/-- An open that does not succeed is the whole call. -/
theorem execScoped_of_open_fails (hreturns : s₁.returns ≠ s.returns ++ [⟨s.caller, .ok .unit⟩]) :
    execScoped i s = .next s₁ := by
  have hfree := lockFree_of_exec hopen
  rcases runCall_cases (openSession s.cfg) s with ⟨_, _, e⟩ | ⟨_, ⟨o, v, hrun, e⟩ | ⟨v, hrun, e⟩ | ⟨_, _, e⟩⟩
  · cases e.symm.trans hopen
  · cases e.symm.trans hopen
    cases o with
    | err err => exact runCall_of_run hfree (Prog.run_progScoped_openFails hrun)
    | ok x =>
      obtain rfl := Prog.eq_unit_of_run_openSession hrun
      have hframe := SameFrame.of_done hrun
      exact absurd (by simp [hframe.returns, hframe.caller]) hreturns
  · cases e.symm.trans hopen
    exact runCall_of_stall hfree (Prog.run_progScoped_openStalls hrun)
  · cases e.symm.trans hopen

variable (hreturns : s₁.returns = s.returns ++ [⟨s.caller, .ok .unit⟩])
include hreturns

/-- Where the open succeeds the run of the operation is inside the scoped call, and so is that of the close. -/
theorem inside_of_open : ∃ v, (openSession s.cfg).run s.takeLock = .done (.ok .unit) v ∧ Inside s₁ v := by
  have hinside := inside_takeLock (lockFree_of_exec hopen)
  rcases hinside.runCall_cases hopen with ⟨o, v, hrun, rfl, hreturned⟩ | ⟨v, -, -, hreturned⟩
  · rw [hreturned] at hreturns
    obtain rfl : o = .ok .unit := by simpa using hreturns
    exact ⟨v, hrun, hinside.returned hrun⟩
  · simp [hreturned] at hreturns

variable {s₂ : State} (hctl : i.isController = true) (hop : exec i s₁ = .next s₂)
include hctl hop

/-- An operation that stalls leaves the whole call stuck (R224). -/
theorem execScoped_of_op_stalls (hstall : s₂.returns = s₁.returns) :
    execScoped i s = .next { s₂ with returns := s.returns } := by
  obtain ⟨v, hrun, hinside⟩ := inside_of_open hopen hreturns
  rw [exec_eq_runCall hctl, ← hinside.cfg, (SameFrame.of_done hrun).cfg, s.takeLock_cfg] at hop
  rcases hinside.runCall_cases hop with ⟨r, w, -, -, hreturned⟩ | ⟨w, hrun', rfl, -⟩
  · simp [hreturned] at hstall
  · have hw : s.returns = w.returns := by
      rw [(SameFrame.of_stalled hrun').returns, (SameFrame.of_done hrun).returns, s.takeLock_returns]
    rw [hw]
    exact runCall_of_stall (lockFree_of_exec hopen) (Prog.run_progScoped_stalls hrun hrun')

variable {r : Result} (hreturned : s₂.returns = s₁.returns ++ [⟨s.caller, r⟩])
include hreturned

/-- Where the operation returns the run of the close is inside the scoped call. -/
theorem inside_of_op : ∃ v w, (openSession s.cfg).run s.takeLock = .done (.ok .unit) v ∧
    (programOf s.cfg i).run v = .done r w ∧ Inside s₂ w ∧ w.returns = s.returns ∧ w.caller = s.caller := by
  obtain ⟨v, hrun, hinside⟩ := inside_of_open hopen hreturns
  have hframe := SameFrame.of_done hrun
  rw [exec_eq_runCall hctl, ← hinside.cfg, hframe.cfg, s.takeLock_cfg] at hop
  rcases hinside.runCall_cases hop with ⟨r', w, hrun', rfl, hsame⟩ | ⟨w, -, -, hsame⟩
  · rw [hsame] at hreturned
    obtain ⟨-, rfl⟩ : _ ∧ r' = r := by simpa using hreturned
    have hframe' := hframe.trans (SameFrame.of_done hrun')
    exact ⟨v, w, hrun, hrun', hinside.returned hrun', by simp [hframe'.returns], by simp [hframe'.caller]⟩
  · simp [hsame] at hreturned

variable {s₃ : State} (hclose : exec .closeController s₂ = .next s₃)
include hclose

theorem execScoped_of_close_stalls (hstall : s₃.returns = s₂.returns) :
    execScoped i s = .next { s₃ with returns := s.returns } := by
  obtain ⟨v, w, hrun, hrun', hinside, hreturns', -⟩ := inside_of_op hopen hreturns hctl hop hreturned
  rcases hinside.runCall_cases hclose with ⟨c, x, -, -, hsame⟩ | ⟨x, hrun'', rfl, -⟩
  · simp [hsame] at hstall
  · have hx : s.returns = x.returns := by rw [(SameFrame.of_stalled hrun'').returns, hreturns']
    rw [hx]
    exact runCall_of_stall (lockFree_of_exec hopen) (Prog.run_progScoped_closeStalls hrun hrun' hrun'')

/-- Where all three return the scoped call returns once, in their place (R208). -/
theorem execScoped_of_close {c : Result} (hreturned' : s₃.returns = s₂.returns ++ [⟨s.caller, c⟩]) :
    execScoped i s = .next { s₃ with returns := s.returns ++ [⟨s.caller, scopedResult r c⟩] } := by
  obtain ⟨v, w, hrun, hrun', hinside, hreturns', hcaller⟩ := inside_of_op hopen hreturns hctl hop hreturned
  rcases hinside.runCall_cases hclose with ⟨c', x, hrun'', rfl, hsame⟩ | ⟨x, -, -, hsame⟩
  · rw [hsame] at hreturned'
    obtain ⟨-, rfl⟩ : _ ∧ c' = c := by simpa using hreturned'
    have hframe := SameFrame.of_done hrun''
    have hdelivered := withReturns_releaseLock_deliver x s₂.returns _ c' (scopedResult r c') rfl
    rw [hframe.returns, hframe.caller, hreturns', hcaller] at hdelivered
    exact (runCall_of_run (lockFree_of_exec hopen) (Prog.run_progScoped_done hrun hrun' hrun'')).trans
      (congrArg Host.Outcome.next hdelivered.symm)
  · simp [hsame] at hreturned'

end

/-! ### A scoped call that opens and closes (R208, R209) -/

namespace State

/-- Whether the configured lines are free depends on the lines that the sequencers hold (R144). -/
theorem configFree_congr {s t : State} (hcfg : t.cfg = s.cfg) (hlines : t.ctl.gpio.lines = s.ctl.gpio.lines)
    (halone : t.alone = s.alone) (hparked : t.parked = s.parked) : t.configFree = s.configFree := by
  simp only [configFree, linesFree, hcfg, hlines, halone, hparked]

end State

/-- In a session just opened the operation returns, and it moves no register, and of the session the level of the TX/RX
line alone. -/
structure ActsInSession (s : State) (i : Instr) (v : State) (r : Result) (side : List (Event × Bool)) (n : Nat) :
    Prop where
  run : (programOf s.cfg i).run s.sessionOpened = .done r v
  acted : Acted s.sessionOpened v side n
  ctl : ∃ b, v.ctl = { s.sessionOpened.ctl with gpio := s.gpioOpened.drive .txrx b }
  regs : v.device.regs = s.sessionOpened.device.regs

section
variable {s : State} {i : Instr} {v : State} {r : Result} {side : List (Event × Bool)} {n : Nat}

/-- The close after such an operation ends the session, and releases the two lines that the open requested. -/
theorem ActsInSession.run_progScoped (h : ActsInSession s i v r side n) (hclosed : s.sessionClosed = true)
    (hconfig : s.configFree = true) (hans : s.answersSucceed (4 + n + 4) = true) :
    (progScoped s.cfg i).run s = .done r v.sessionEnded ∧
      Acted s v.sessionEnded (s.openEvents ++ side ++ s.closeEvents) (4 + n + 4) ∧
      v.sessionEnded.sessionClosed = true ∧ v.sessionEnded.ctl.gpio.lines = s.ctl.gpio.lines ∧
      v.sessionEnded.device.regs = s.device.regs := by
  obtain ⟨b, hctl⟩ := h.ctl
  have hacted := s.acted_sessionOpened.trans h.acted
  rw [State.answersSucceed_iff] at hans
  have hanswers : ∀ k < 4, (v.answerAt k).status = .ok := by
    intro k hk
    rw [hacted.answers]
    exact hans _ (by omega)
  have hcount : ((List.range 4).countP fun k => (v.answerAt k).status == .failed) = 0 := by
    rw [List.countP_eq_zero]
    intro k hk
    simp [hanswers k (List.mem_range.mp hk)]
  have hrun := Prog.run_closeSession (s := v)
    (State.inSession_iff.mpr (by rw [hctl]; exact ⟨rfl, rfl, rfl⟩)) fun k hk => by simp [hanswers k hk]
  rw [hcount] at hrun
  have hended := v.acted_sessionEnded
  rw [hanswers 0 (by decide), hanswers 1 (by decide), hanswers 2 (by decide), hanswers 3 (by decide), hctl] at hended
  have hopen := Prog.run_openSession_ok hclosed hconfig
    ((s.answersSucceed_iff 4).mpr fun k hk => hans k (by omega))
  refine ⟨?_, ?_, by simp [State.sessionClosed, State.gpioClosed], ?_, ?_⟩
  · rw [Prog.run_progScoped_done hopen h.run hrun]
    exact congrArg (Ran.done · _) (scopedResult_ok r .unit)
  · have hall := hacted.trans hended
    rwa [show 4 + (n + 4) = 4 + n + 4 by omega] at hall
  · simp [State.gpioClosed, hctl, State.gpioOpened, Gpio.drive, Gpio.afterOpen]
  · rw [State.sessionEnded_device, State.sequencerClosed_regs, h.regs, State.sessionOpened_regs]

end

/-- A scoped call of an operation that transfers nothing (R208). -/
theorem execScoped_acts {s v : State} {i : Instr} {r : Result} {side : List (Event × Bool)} {n : Nat}
    (h : ActsInSession s.takeLock i v r side n) (hfree : s.lockFree = true) (hclosed : s.sessionClosed = true)
    (hconfig : s.configFree = true) (hans : s.answersSucceed (4 + n + 4) = true) :
    ∃ t, execScoped i s = .next t ∧ Returned s t [] (s.openEvents ++ side ++ s.closeEvents) r ∧
      t.lockFree = true ∧ t.sessionClosed = true ∧ t.configFree = true ∧
      (∀ k, t.answerAt k = s.answerAt (k + (4 + n + 4))) ∧ t.device.regs = s.device.regs := by
  obtain ⟨hrun, hacted, hended, hlines, hregs⟩ :=
    h.run_progScoped (by simpa using hclosed) (by simpa using hconfig) (by simpa using hans)
  have hevents : s.takeLock.closeEvents = s.closeEvents := by simp [State.closeEvents]
  rw [s.takeLock_openEvents, hevents] at hacted
  rw [s.takeLock_cfg] at hrun
  obtain ⟨hexec, hreturned, halone, -⟩ := runCall_acted hfree hrun hacted
  refine ⟨_, hexec, hreturned, ?_, ?_, ?_, fun k => ?_, ?_⟩
  · rw [State.lockFree, hreturned.cfg, hreturned.owner]; exact hfree
  · rw [State.sessionClosed_iff] at hended ⊢
    simpa using hended
  · rw [State.configFree_congr hreturned.cfg (by simpa using hlines) halone hreturned.parked]; exact hconfig
  · rw [State.answerAt_congr (t := State.deliver _ r) (s := v.sessionEnded) (by simp) (by simp), hacted.answers,
      State.answerAt_takeLock]
  · simpa using hregs

/-! ### Three operations in a session -/

section
variable {s : State}

theorem State.sessionOpened_answer (hans : s.answersSucceed 5 = true) : s.sessionOpened.answer.status = .ok := by
  rw [s.acted_sessionOpened.answer]
  exact (s.answersSucceed_iff 5).mp hans 4 (by decide)

/-- The switch writes its line, which is not the reset line (R202). -/
theorem actsInSession_setTxRxSwitch (on : Bool) (hne : s.cfg.resetLine ≠ s.cfg.txrxLine)
    (hans : s.answersSucceed 5 = true) :
    ActsInSession s (.setTxRxSwitch on) (s.sessionOpened.lineDriven .txrx on) (.ok .unit)
      [(.lineSet s.cfg.txrxLine on, true)] 1 where
  run := (Prog.run_requireReady _ rfl).trans <| congrArg Ran.inController <|
    Prog.run_lineDriven (fun _ => .ret .unit) rfl (State.sessionOpened_answer hans)
  acted := State.acted_lineDriven _ .txrx on
  ctl := ⟨on, rfl⟩
  regs := State.lineDriven_regs_of_ne _ _ _ (by rw [s.acted_sessionOpened.cfg]; exact hne.symm)

/-- An open has driven the line low, so that the switch reads receive (R203, R209). -/
theorem actsInSession_getTxRxSwitch (hans : s.answersSucceed 5 = true) :
    ActsInSession s .getTxRxSwitch { s.sessionOpened.consume with now := s.sessionOpened.attemptEnd }
      (.ok (.level false)) [] 1 where
  run := (Prog.run_requireReady _ rfl).trans <| congrArg Ran.inController <|
    (Prog.run_requireGpio _ rfl).trans (Prog.run_readLine rfl (State.sessionOpened_answer hans))
  acted := ⟨rfl, rfl, rfl, rfl, rfl, (List.append_nil _).symm, fun k => State.answerAt_consume _ k⟩
  ctl := ⟨false, rfl⟩
  regs := rfl

/-- A frequency outside the valid range ends the operation before its first write (R149, R208). -/
theorem actsInSession_setRxFrequency {f : Nat} (hfxosc : legalFxosc s.cfg.fxosc = true)
    (hf : f < 400000000 ∨ 510000000 < f) :
    ActsInSession s (.setRxFrequency f) s.sessionOpened (.err ⟨.invalidArgument, .frequencyOutsideRange, []⟩) [] 0 where
  run := by
    have hinvalid : ¬validHz f = true := by rw [validHz_iff]; omega
    rw [(setsWord_rx f).program, setFrequency, if_neg hinvalid, Prog.run_requireFxosc _ hfxosc,
      Prog.run_requireReady _ rfl]
    rfl
  acted := .refl _
  ctl := ⟨false, rfl⟩
  regs := rfl

end

/-- Settles O48: the three calls find in turn the state that the runs inside the scoped call find, but for the results
returned and the lock; and the next scoped call opens its own session, with both lines low. -/
theorem scopedLifecycle : Obligations.ScopedLifecycle := by
  refine ⟨fun i s s₁ hctl hopen => ⟨execScoped_of_open_fails hopen, fun hreturns s₂ hop =>
    ⟨execScoped_of_op_stalls hopen hreturns hctl hop, fun r hreturned s₃ hclose =>
      ⟨execScoped_of_close_stalls hopen hreturns hctl hop hreturned hclose, fun c hreturned' => ?_⟩⟩⟩,
    fun s on f hfree hclosed hconfig hfxosc => ⟨fun hans => ?_, fun hans hf => ?_⟩⟩
  · rw [execScoped_of_close hopen hreturns hctl hop hreturned hclose hreturned']
    cases r <;> cases c <;> rfl
  · obtain ⟨-, -, hne⟩ := State.configFree_iff.mp hconfig
    rw [State.answersSucceed_iff] at hans
    have hfirst : ∀ m ≤ 9, s.answersSucceed m = true := fun m hm =>
      (s.answersSucceed_iff m).mpr fun k hk => hans k (by omega)
    obtain ⟨t, hexec, hreturned, hfree', hclosed', hconfig', hanswers, hregs⟩ :=
      execScoped_acts (actsInSession_setTxRxSwitch (s := s.takeLock) on (by simpa using hne)
        (by simpa using hfirst 5 (by decide))) hfree hclosed hconfig (hfirst 9 le_rfl)
    have hsecond : ∀ m ≤ 9, t.answersSucceed m = true := fun m hm =>
      (t.answersSucceed_iff m).mpr fun k hk => by rw [hanswers]; exact hans _ (by omega)
    obtain ⟨u, hexec', hreturned', -, hended, -, -, hregs'⟩ :=
      execScoped_acts (actsInSession_getTxRxSwitch (s := t.takeLock) (by simpa using hsecond 5 (by decide)))
        hfree' hclosed' hconfig' (hsecond 9 le_rfl)
    have hevents : t.openEvents = s.openEvents ∧ t.closeEvents = s.closeEvents := by
      simp [State.openEvents, State.closeEvents, hreturned.cfg]
    rw [hevents.1, hevents.2, List.append_nil] at hreturned'
    exact ⟨t, u, hexec, hexec', by simpa using hreturned, hreturned', hended, hregs'.trans hregs⟩
  · obtain ⟨t, hexec, hreturned, -, hended, -⟩ :=
      execScoped_acts (actsInSession_setRxFrequency (s := s.takeLock) (by simpa using hfxosc) hf) hfree hclosed hconfig hans
    rw [List.append_nil] at hreturned
    exact ⟨t, hexec, hreturned, hended⟩

end Sys2Proof.Machine
end

section
/-! Every error has the shape of R219: a composite is raised of some kinds, none of them a composite, and every other
error without members. What a program ends in, in whatever order its turns run, and what a step makes of it. -/

namespace Sys2Proof.Machine

/-! ### Errors (R183, R219) -/

theorem Result.isWf_err {e : Error} :
    (Result.err e).isWf = true ↔
      (e.kind = .compositeCloseError ↔ e.members ≠ []) ∧ .compositeCloseError ∉ e.members := by
  rw [Result.isWf, Bool.and_eq_true, beq_iff_eq, Bool.eq_iff_iff]
  refine and_congr (by simp) ⟨fun h hmem => ?_, fun h => ?_⟩
  · simpa using List.all_eq_true.mp h _ hmem
  · exact List.all_eq_true.mpr fun k hk => bne_iff_ne.mpr fun hkind => h (hkind ▸ hk)

@[simp] theorem Result.isWf_ok (v : Value) : (Result.ok v).isWf = true := rfl

theorem isWf_raised {kind : ErrorKind} (info : ErrorInfo) (h : kind ≠ .compositeCloseError) :
    (Result.err ⟨kind, info, []⟩).isWf = true := by simp [Result.isWf_err, h]

theorem isWf_composite {l : List ErrorKind} (hne : l ≠ []) (hflat : .compositeCloseError ∉ l) :
    (Result.err ⟨.compositeCloseError, .closeErrors, l⟩).isWf = true := by simp [Result.isWf_err, hne, hflat]

/-- An error contributes at least one kind to a composite, and never a composite (R183). -/
theorem Error.flatten_of_isWf {e : Error} (h : (Result.err e).isWf = true) :
    e.flatten ≠ [] ∧ .compositeCloseError ∉ e.flatten := by
  obtain ⟨hmembers, hflat⟩ := Result.isWf_err.mp h
  unfold Error.flatten
  split
  · next hkind => exact ⟨hmembers.mp hkind, hflat⟩
  · next hkind => exact ⟨List.cons_ne_nil _ _, by simpa using Ne.symm hkind⟩

theorem Result.composite_notMem_errors {r : Result} (h : r.isWf = true) : .compositeCloseError ∉ r.errors := by
  cases r with
  | ok v => exact List.not_mem_nil
  | err e => exact (Error.flatten_of_isWf h).2

theorem Result.isWf_inController {r : Result} (h : r.isWf = true) : r.inController.isWf = true := by
  cases r with
  | ok v => rfl
  | err e =>
    by_cases hkind : e.kind = .invalidState
    · rw [Result.inController, if_pos hkind]; exact isWf_raised _ (by decide)
    · rw [Result.inController_err hkind]; exact h

/-! ### Programs -/

namespace Prog

section
variable {P D : Result → Prop} {q q' : Prog}

theorem Ends.look {k : Controller → Prog} (hk : ∀ c, Ends P D (k c)) : Ends P D (look k) := fun r => hk r.ctl

theorem Ends.ite {p : Prop} [Decidable p] (hq : p → Ends P D q) (hq' : ¬p → Ends P D q') :
    Ends P D (if p then q else q') := by
  split
  · next h => exact hq h
  · next h => exact hq' h

theorem Ends.uninterrupted (hq : Ends P P q) : Ends P P (Prog.uninterrupted q) := ⟨hq, fun _ h => h⟩

end

/-- The program ends in no misshapen error (R219), while its uninterrupted parts end in none. -/
abbrev EndsWf (q : Prog) : Prop := Ends (·.isWf = true) (·.isWf = true) q

theorem endsWf_ret (v : Value) : (ret v).EndsWf := Result.isWf_ok v

theorem endsWf_raise {kind : ErrorKind} (info : ErrorInfo) (h : kind ≠ .compositeCloseError := by decide) :
    (raise kind info).EndsWf := isWf_raised info h

end Prog

open Prog (endsWf_ret endsWf_raise)

/-! ### Checks and register steps -/

section
variable {q : Prog}

theorem endsWf_requireReady (hq : q.EndsWf) : (requireReady q).EndsWf :=
  .look fun _ => .ite (fun _ => hq.bind fun _ => Result.isWf_inController) fun _ => endsWf_raise _

theorem endsWf_requireSpi (hq : q.EndsWf) : (requireSpi q).EndsWf :=
  .look fun _ => .ite (fun _ => hq) fun _ => endsWf_raise _

theorem endsWf_requireGpio (hq : q.EndsWf) : (requireGpio q).EndsWf :=
  .look fun _ => .ite (fun _ => hq) fun _ => endsWf_raise _

theorem endsWf_requireRange (start n : Nat) (hq : q.EndsWf) : (requireRange start n q).EndsWf :=
  .ite (fun _ => hq) fun _ => endsWf_raise _

theorem endsWf_requireFxosc (cfg : Config) (hq : q.EndsWf) : (requireFxosc cfg q).EndsWf :=
  .ite (fun _ => hq) fun _ => trivial

theorem endsWf_spiTransfer (tx : Frame) {next : Frame → Prog} (hnext : ∀ rx, (next rx).EndsWf) :
    (spiTransfer tx next).EndsWf :=
  fun _ => .ite (fun _ => endsWf_raise _) fun _ => .ite (fun _ => endsWf_raise _) fun _ _ => hnext _

theorem endsWf_writeReg (addr : Nat) (value : Byte) (hq : q.EndsWf) : (writeReg addr value q).EndsWf :=
  endsWf_requireSpi <| endsWf_requireRange _ _ <| endsWf_spiTransfer _ fun _ => hq

theorem endsWf_readReg (addr : Nat) {next : Byte → Prog} (hnext : ∀ r, (next r).EndsWf) :
    (readReg addr next).EndsWf := by
  refine endsWf_requireSpi <| endsWf_requireRange _ _ <| endsWf_spiTransfer _ fun rx => ?_
  split
  · exact hnext _
  · exact endsWf_raise _

theorem endsWf_returnReg (addr : Nat) : (returnReg addr).EndsWf := endsWf_readReg addr fun _ => endsWf_ret _

theorem endsWf_readModifyWrite (reg : Reg) (update : Byte → Byte) : (readModifyWrite reg update).EndsWf :=
  endsWf_readReg _ fun _ => endsWf_writeReg _ _ (endsWf_ret _)

theorem endsWf_writeTable (table : List Host.Cell) : (writeTable table).EndsWf := by
  induction table with
  | nil => exact endsWf_ret _
  | cons e rest ih => exact endsWf_writeReg _ _ ih

theorem endsWf_burstWrite (start : Nat) (values : List Byte) : (progBurstWrite start values).EndsWf :=
  endsWf_requireSpi <| .ite (fun _ => endsWf_raise _) fun _ => endsWf_requireRange _ _ <|
    endsWf_spiTransfer _ fun _ => endsWf_ret _

theorem endsWf_burstRead (start : Nat) (count : Int) : (progBurstRead start count).EndsWf :=
  endsWf_requireSpi <| .ite (fun _ => endsWf_raise _) fun _ => endsWf_requireRange _ _ <|
    endsWf_spiTransfer _ fun _ => endsWf_ret _

theorem endsWf_setFrequency (cfg : Config) (first : Reg) (f : Nat) : (setFrequency cfg first f).EndsWf :=
  endsWf_requireFxosc _ <| endsWf_requireReady <| .ite
    (fun _ => endsWf_writeReg _ _ <| endsWf_writeReg _ _ <| endsWf_writeReg _ _ <| endsWf_ret _)
    fun _ => endsWf_raise _

theorem endsWf_getFrequency (cfg : Config) (first : Reg) : (getFrequency cfg first).EndsWf :=
  endsWf_requireFxosc _ <| endsWf_requireReady <| endsWf_readReg _ fun _ => endsWf_readReg _ fun _ =>
    endsWf_readReg _ fun _ => endsWf_ret _

theorem endsWf_setGain (fd : Field) (code : Nat) : (setGain fd code).EndsWf :=
  endsWf_requireReady (endsWf_readModifyWrite _ _)

theorem endsWf_enableBit (b : ModeBit) (on : Bool) : (enableBit b on).EndsWf :=
  endsWf_requireReady (endsWf_readModifyWrite _ _)

theorem endsWf_writeMode (m : Byte) : (writeMode m).EndsWf :=
  endsWf_requireReady (endsWf_writeReg _ _ (endsWf_ret _))

/-! ### Lines -/

theorem endsWf_driveLine (pin : Pin) (level : Bool) {next : Nat → Prog} (hnext : ∀ slack, (next slack).EndsWf) :
    (driveLine pin level next).EndsWf :=
  fun _ => .ite (fun _ => hnext _) fun _ => endsWf_raise _

theorem endsWf_readLine (pin : Pin) : (readLine pin).EndsWf :=
  fun _ => .ite (fun _ => endsWf_ret _) fun _ => endsWf_raise _

theorem endsWf_pulseReset : pulseReset.EndsWf :=
  endsWf_requireGpio <| endsWf_driveLine _ _ fun _ _ => endsWf_driveLine _ _ fun _ _ => endsWf_ret _

theorem endsWf_driveTxRx (level : Bool) : (driveTxRx level).EndsWf :=
  endsWf_requireGpio (endsWf_driveLine _ _ fun _ => endsWf_ret _)

theorem endsWf_readTxRx : readTxRx.EndsWf := endsWf_requireGpio (endsWf_readLine _)

/-! ### Opens and closes -/

theorem endsWf_openTransport : openTransport.EndsWf :=
  .look fun _ => .ite (fun _ => endsWf_raise _) fun _ _ =>
    .ite (fun _ _ => endsWf_ret _) fun _ => endsWf_raise _

theorem endsWf_closeTransport : closeTransport.EndsWf :=
  .look fun _ => .ite (fun _ _ _ => .ite (fun _ => endsWf_ret _) fun _ => endsWf_raise _) fun _ => endsWf_ret _

theorem endsWf_openSequencer (chip : Path) (resetPin txRxPin : Nat) :
    (openSequencer chip resetPin txRxPin).EndsWf :=
  .look fun _ => .ite (fun _ => endsWf_raise _) fun _ _ => .ite (fun _ => endsWf_raise _) fun _ _ =>
    .ite (fun _ _ => endsWf_raise _) fun _ _ => .ite (fun _ _ _ => endsWf_raise _) fun _ _ _ _ _ => endsWf_ret _

/-- The releases' errors are all `TransportFailure`: none is itself, one is raised as it is, and more are a composite
(R140, R219). -/
theorem endsWf_closeSequencer : closeSequencer.EndsWf := by
  refine .look fun c => .ite (fun _ r₁ r₂ r₃ _ => ?_) fun _ => endsWf_ret _
  have released : .compositeCloseError ∉ releaseError r₁ ++ releaseError r₂ ++ releaseError r₃ := by
    simp only [List.mem_append]
    rintro ((h | h) | h) <;> cases eq_transportFailure_of_mem_releaseError h
  dsimp only
  split
  · exact endsWf_ret _
  · next e he => exact endsWf_raise _ fun hkind => released (by simp [he, hkind])
  · next hne _ => exact isWf_composite hne released

theorem endsWf_openSession (cfg : Config) : (openSession cfg).EndsWf := by
  refine .uninterrupted <| .look fun c => .ite (fun _ => endsWf_raise _) fun _ => ?_
  refine endsWf_openTransport.bind fun r₁ _ => ?_
  cases r₁ with
  | err e => exact endsWf_raise _
  | ok v =>
    refine (endsWf_openSequencer _ _ _).bind fun r₂ _ => ?_
    cases r₂ with
    | err e => exact endsWf_closeTransport.bind fun _ _ => endsWf_raise _
    | ok v => exact fun _ => endsWf_ret _

/-- The errors of the two closes are flattened, so that the sequencer's composite is no member (R183, R219). -/
theorem endsWf_closeSession : closeSession.EndsWf := by
  refine .uninterrupted <| endsWf_requireReady <| endsWf_closeSequencer.bind fun r₁ h₁ =>
    endsWf_closeTransport.bind fun r₂ h₂ _ => ?_
  dsimp only
  split
  · exact endsWf_ret _
  · next hne => exact isWf_composite hne (by
      simp [Result.composite_notMem_errors h₁, Result.composite_notMem_errors h₂])

end

/-! ### Operations and calls -/

theorem endsWf_programOf (cfg : Config) (i : Instr) : (programOf cfg i).EndsWf := by
  cases i with
  | spiOpen => exact endsWf_openTransport.uninterrupted
  | spiClose => exact endsWf_closeTransport.uninterrupted
  | gpioOpen chip resetPin txRxPin => exact (endsWf_openSequencer chip resetPin txRxPin).uninterrupted
  | gpioClose => exact endsWf_closeSequencer.uninterrupted
  | openController => exact endsWf_openSession cfg
  | closeController => exact endsWf_closeSession
  | writeRegister a v => exact endsWf_writeReg a v (endsWf_ret _)
  | readRegister | checkDevice => exact endsWf_returnReg _
  | burstWrite start values => exact endsWf_burstWrite start values
  | burstRead start count => exact endsWf_burstRead start count
  | reset => exact endsWf_pulseReset
  | setResetPin level => exact endsWf_requireGpio (endsWf_driveLine _ _ fun _ => endsWf_ret _)
  | getResetPin => exact endsWf_requireGpio (endsWf_readLine _)
  | setTxRxPin level => exact endsWf_driveTxRx level
  | getTxRxPin => exact endsWf_readTxRx
  | setRxFrequency f | setTxFrequency f => exact endsWf_setFrequency cfg _ f
  | getRxFrequency | getTxFrequency => exact endsWf_getFrequency cfg _
  | setLnaGain | setPgaGain | setDacGain | setMixerGain => exact endsWf_setGain _ _
  | enableRx on | enableTx on | enablePA on => exact endsWf_enableBit _ on
  | setMode | setModeSleep | setModeStandby | setModeRx | setModeTx | setModeTxFull | setModeFullDuplex =>
    exact endsWf_writeMode _
  | getMode | probe => exact endsWf_requireReady (endsWf_returnReg _)
  | getStatus | getVersion => exact endsWf_requireReady (endsWf_readReg _ fun _ => endsWf_ret _)
  | setTxRxSwitch on => exact endsWf_requireReady (endsWf_driveTxRx on)
  | getTxRxSwitch => exact endsWf_requireReady endsWf_readTxRx
  | resetDevice => exact endsWf_requireReady endsWf_pulseReset
  | initializeWithDefaults => exact endsWf_requireReady (endsWf_writeTable _)

/-- Where the operation and its close both fail, their errors are flattened into one composite (R208, R219). -/
theorem endsWf_progScoped (cfg : Config) (i : Instr) : (progScoped cfg i).EndsWf := by
  refine (endsWf_openSession cfg).bind fun o ho => ?_
  cases o with
  | err e => exact ho
  | ok v =>
    refine (endsWf_programOf cfg i).bind fun r hr => endsWf_closeSession.bind fun c hc => ?_
    match r, c with
    | .ok v, .ok v' => exact Result.isWf_ok v
    | .ok v, .err e' => exact hc
    | .err e, .ok v' => exact hr
    | .err e, .err e' =>
      obtain ⟨hne, hflat⟩ := Error.flatten_of_isWf hr
      obtain ⟨-, hflat'⟩ := Error.flatten_of_isWf hc
      exact isWf_composite (List.append_ne_nil_of_left_ne_nil hne _) (by simp [hflat, hflat'])

theorem endsWf_programOfCall (cfg : Config) : ∀ c : Call, (programOfCall cfg c).EndsWf
  | .op i => endsWf_programOf cfg i
  | .scoped i => endsWf_progScoped cfg i

/-! ### Steps -/

theorem State.errorsWf_iff {s : State} : s.errorsWf = true ↔
    (∀ x ∈ s.returns, x.result.isWf = true) ∧ ∀ r ∈ s.requests, ∀ turn ∈ r.turns, turn.isWf = true := by
  simp [State.errorsWf]

section
variable {s t : State} {n : Nat} {r : Request} {c : Call}

/-- What a step returns is what its call's program has run to, or comes to after the turns that it has had. -/
theorem Stepped.mem_returns (h : Stepped s n r c t) {x : Return} (hx : x ∈ t.returns) :
    x ∈ s.returns ∨ (∃ u v, (programOfCall s.cfg c).run u = .done x.result v) ∨
      (programOfCall s.cfg c).resume r.turns = .done x.result := by
  cases h with
  | @wholeDone res v _ _ hrun =>
    have hx' : x ∈ s.returns ∨ x = ⟨v.caller, res⟩ := by simpa [(SameFrame.of_done hrun).returns] using hx
    rcases hx' with hx' | rfl
    · exact .inl hx'
    · exact .inr (.inl ⟨_, _, hrun⟩)
  | wholeStalled _ hrun => exact .inl (by simpa [(SameFrame.of_stalled hrun).returns] using hx)
  | @returned res _ hdone =>
    have hx' : x ∈ s.returns ∨ x = ⟨r.caller, res⟩ := by simpa using hx
    rcases hx' with hx' | rfl
    · exact .inl hx'
    · exact .inr (.inr hdone)
  | turnDone _ hrun _ => exact .inl (by simpa [(SameFrame.of_done hrun).returns] using hx)
  | turnStalled _ hrun => exact .inl (by simpa [(SameFrame.of_stalled hrun).returns] using hx)

/-- A turn that a call in progress has had after a step, it had before; or it is a primitive's reply, or what an
uninterrupted part of the chosen request's call has run to. -/
theorem Stepped.mem_turns (h : Stepped s n r c t) (hnext : s.nextRequest = some (n, r)) {r' : Request} {turn : Turn}
    (hr' : r' ∈ t.requests) (hturn : turn ∈ r'.turns) :
    (∃ r'' ∈ s.requests, turn ∈ r''.turns) ∨ (∃ reply, turn = .reply reply) ∨
      ∃ res q k u v, turn = .result res ∧ (programOfCall s.cfg c).resume r.turns = .whole q k ∧
        q.run u = .done res v := by
  have hr : r ∈ s.requests := List.mem_of_getElem? (nextRequest_some hnext).1
  have erased : r' ∈ s.requests.eraseIdx n → ∃ r'' ∈ s.requests, turn ∈ r''.turns :=
    fun hmem => ⟨r', List.mem_of_mem_eraseIdx hmem, hturn⟩
  cases h with
  | wholeDone _ _ hrun => exact .inl (erased (by simpa [(SameFrame.of_done hrun).requests] using hr'))
  | wholeStalled _ hrun => exact .inl (erased (by simpa [(SameFrame.of_stalled hrun).requests] using hr'))
  | returned _ _ => exact .inl (erased hr')
  | turnDone _ hrun htaken =>
    rcases List.mem_or_eq_of_mem_set hr' with hmem | rfl
    · exact .inl ⟨r', hmem, hturn⟩
    · rcases List.mem_append.mp hturn with hturn | hturn
      · exact .inl ⟨r, hr, hturn⟩
      · rw [List.mem_singleton.mp hturn]
        rcases htaken with hreply | ⟨hres, q, k, hq⟩
        · exact .inr (.inl hreply)
        · rw [hq] at hrun
          exact .inr (.inr ⟨_, q, k, _, _, hres, hq, by simpa [Prog.oneTurn] using hrun⟩)
  | turnStalled _ _ =>
    rcases List.mem_or_eq_of_mem_set hr' with hmem | rfl
    · exact .inl ⟨r', hmem, hturn⟩
    · exact .inl ⟨r, hr, hturn⟩

theorem Stepped.errorsWf (h : Stepped s n r c t) (hnext : s.nextRequest = some (n, r)) (hs : s.errorsWf = true) :
    t.errorsWf = true := by
  rw [State.errorsWf_iff] at hs ⊢
  obtain ⟨hreturns, hturns⟩ := hs
  have hprog := endsWf_programOfCall s.cfg c
  have hresumed : ((programOfCall s.cfg c).resume r.turns).EndsWf :=
    hprog.resume fun res hres => hturns r (List.mem_of_getElem? (nextRequest_some hnext).1) (.result res) hres
  refine ⟨fun x hx => ?_, fun r' hr' turn hturn => ?_⟩
  · rcases h.mem_returns hx with hx | ⟨u, v, hrun⟩ | hdone
    · exact hreturns x hx
    · exact Prog.run_ends hprog hrun
    · rw [hdone] at hresumed; exact hresumed
  · rcases h.mem_turns hnext hr' hturn with
      ⟨r'', hr'', hturn⟩ | ⟨reply, rfl⟩ | ⟨res, q, k, u, v, rfl, hq, hrun⟩
    · exact hturns r'' hr'' turn hturn
    · rfl
    · rw [hq] at hresumed; exact Prog.run_ends hresumed.1 hrun

end

/-- Settles O55: no program ends in a misshapen error, whole or in uninterrupted parts, and what a step returns or
records is what a program has ended in. -/
theorem stepKeepsErrorsWellFormed : Obligations.StepKeepsErrorsWellFormed := by
  intro s t hs h
  rcases step_cases h with rfl | ⟨n, r, c, hnext, -, hstep⟩
  · exact hs
  · exact hstep.errorsWf hnext hs

end Sys2Proof.Machine
end

section
/-! A transfer that stalls (R80, R224): the frames before it stay sent, and its operation never returns and keeps the
lock. -/

namespace Sys2Proof.Machine

/-- A whole call whose program's run stalls. -/
theorem wholeCall_of_stall {alone : Bool} {q : Prog} {s t : State} (hfree : s.lockFree = true)
    (hrun : q.run (s.view alone).takeLock = .stalled t) : wholeCall alone q s = .next (t.view alone) := by
  cases alone
  · exact runCall_of_stall hfree hrun
  · exact runAlone_of_stall hfree hrun

/-- The state in which a transfer never ends: it has begun, and what its registers hold is unknown (R113, R124). -/
def State.stuckIn (s : State) (tx : Frame) : State :=
  { s.consume.awaitBus with now := s.nextStart, device := s.device.forget s.nextStart tx }

@[simp] theorem State.stuckIn_frames (s : State) (tx : Frame) : (s.stuckIn tx).frames = s.frames := by
  rw [State.frames_congr (s := s.consume.awaitBus) (t := s.stuckIn tx) rfl]
  simp

/-- The run of an accepted operation whose transfer number `k` stalls, after others that went through, stalls there. -/
theorem run_stalls {s : State} {i : Instr} {k : Nat} {f : Frame} (haccepts : s.acceptsRegisterOp i = true)
    (hf : (s.patternOf i)[k]? = some f) (hans : s.answersOk (List.replicate k 2) = true)
    (hstalled : (s.answerAt k).status = .stalled) :
    (programOf s.cfg i).run (s.entered i) = .stalled ((s.atFrame i k).stuckIn f) := by
  have hpattern : (s.entered i).patternOf i = s.patternOf i :=
    patternOf_congr (cfg_entered s i) (byteRead_entered s i) i
  have hstops := (accepts_entered haccepts).2.stopsAt
  rw [cfg_entered, hpattern] at hstops
  exact hstops k f _ hf (by rwa [answersOk_entered])
    (fun next => Prog.run_spiTransfer_stalled next ((congrArg Answer.status (answer_atFrame hf)).trans hstalled)) rfl

/-- Settles O22: the run stops at the stalled transfer under the lock, which only a return would release. -/
theorem stalledFrameHoldsLock : Obligations.StalledFrameHoldsLock := by
  intro i s k haccepts hser hk hans hstalled
  have hf : (s.patternOf i)[k]? = some (s.patternOf i)[k] := List.getElem?_eq_getElem hk
  have hrun := run_stalls haccepts hf hans hstalled
  have hframe := SameFrame.of_stalled hrun
  have howner : ((s.atFrame i k).stuckIn (s.patternOf i)[k]).owner = some s.caller := by
    rw [hframe.owner]; simp [State.entered, State.takeLock, hser]
  refine ⟨_, (exec_eq_wholeCall i s).trans (wholeCall_of_stall (accepts_entered haccepts).1 hrun), ?_, ?_, ?_,
    exec_locked ?_ ?_⟩
  · simp [hframe.returns, State.entered]
  · simpa using howner
  · rw [State.frames_congr (State.view_trace _ _)]
    simp [State.atFrame]
  · simp [hframe.cfg, cfg_entered, hser]
  · simp [howner]

end Sys2Proof.Machine
end

section
/-! The gap between any two transfers (R27, R113, R245). -/

namespace Sys2Proof.Machine

/-! ### What a primitive does to the bus -/

/-- From `s` to `t` no transfer has come to an end. -/
structure BusQuiet (s t : State) : Prop where
  xfers : t.xfers = s.xfers
  lastEnd : t.lastEnd = s.lastEnd
  now : s.now ≤ t.now

/-- From `s` to `t` one transfer has come to an end, which had waited for the bus (R113). -/
structure BusUsed (s t : State) (e : Stamp) : Prop where
  xfers : t.xfers = s.xfers ++ [e]
  start : s.busReady ≤ e.start
  finish : e.start ≤ e.finish
  lastEnd : t.lastEnd = some e.finish
  now : e.finish ≤ t.now

@[simp] theorem State.xfers_emit (s : State) (a b : Nat) (ev : Event) (ok : Bool) :
    (s.emit a b ev ok).xfers = s.xfers ++ if ev.isXfer then [⟨a, b, s.caller, ev, ok⟩] else [] := by
  cases h : ev.isXfer <;> simp [xfers, h]

/-- Events without a frame are no transfers. -/
theorem Grown.xfers {s t : State} (h : Grown s t []) : t.xfers = s.xfers := by
  obtain ⟨new, htrace, -, hframes⟩ := h
  have hnone : ∀ e ∈ new, ¬e.event.isXfer = true := fun e he hx => by
    have hframe := List.filterMap_eq_nil_iff.mp hframes e he
    cases hev : e.event <;> simp [hev, Event.isXfer, Event.frame?] at hx hframe
  rw [State.xfers, State.xfers, htrace, List.filter_append, List.filter_eq_nil_iff.mpr hnone, List.append_nil]

/-- A line or resource primitive leaves `spi.lastEnd` where its effects do. -/
theorem attempt_lastEnd {possible : Bool} {ev : Event} {onOk onFail onStall : State → State} (s : State)
    (hok : ∀ u, (onOk u).lastEnd = u.lastEnd) (hfail : ∀ u, (onFail u).lastEnd = u.lastEnd)
    (hstall : ∀ u, (onStall u).lastEnd = u.lastEnd) :
    (attempt possible ev onOk onFail onStall s).state.lastEnd = s.lastEnd :=
  Performed.gives_state.mp (attempt_gives (Q := fun _ u => u.lastEnd = s.lastEnd) (fun _ _ _ => hok _)
    (fun _ _ => hfail _) (hstall _))

/-- Only a transfer moves `spi.lastEnd` (R27). -/
theorem perform_lastEnd {p : Prim} (hp : ∀ tx, p ≠ .xfer tx) (s : State) :
    (p.perform s).state.lastEnd = s.lastEnd := by
  cases p with
  | look | assign | gap | hold => rfl
  | xfer tx => exact absurd rfl (hp tx)
  | lineGet pin => rcases getLine_cases s with e | ⟨_, e⟩ <;> rw [Prim.perform, e] <;> rfl
  | lineSet | spiOpen | spiRelease | chipOpen | lineRelease | chipRelease =>
    simp only [Prim.perform, setLine]
    exact attempt_lastEnd s (by simp) (by simp) (by simp)
  | lineRequest line =>
    simp only [Prim.perform]
    exact attempt_lastEnd s (by simp) (by simp) fun u => by split <;> simp

/-- A transfer that stalls never ends; one that ends has waited for the bus (R113, R224). -/
theorem exchange_bus (tx : Frame) (s : State) :
    BusQuiet s (exchange tx s).state ∨ ∃ e, BusUsed s (exchange tx s).state e := by
  have hwaited : s.consume.awaitBus.xfers = s.xfers := (grown_awaitBus s).xfers
  obtain ⟨hnow, hready⟩ := s.le_nextStart
  have used : ∀ (rx : Frame) (ok : Bool) (d : Device), BusUsed s
      { s.consume.awaitBus.emit s.nextStart (s.nextEnd tx) (.xfer tx rx) ok with
        lastEnd := some (s.nextEnd tx), device := d } ⟨s.nextStart, s.nextEnd tx, s.caller, .xfer tx rx, ok⟩ := by
    intro rx ok d
    have hadded : (s.consume.awaitBus.emit s.nextStart (s.nextEnd tx) (.xfer tx rx) ok).xfers
        = s.xfers ++ [⟨s.nextStart, s.nextEnd tx, s.caller, .xfer tx rx, ok⟩] := by
      simp [hwaited, Event.isXfer]
    exact ⟨hadded, hready, by simp only [State.nextEnd]; omega, rfl, le_rfl⟩
  rcases exchange_cases tx s with ⟨_, e⟩ | ⟨_, e⟩ | ⟨_, rx, _, e⟩ <;> rw [e]
  · exact .inl ⟨hwaited, by simp, hnow⟩
  · exact .inr ⟨_, used _ _ _⟩
  · exact .inr ⟨_, used _ _ _⟩

theorem perform_bus (p : Prim) (s : State) :
    BusQuiet s (p.perform s).state ∨ ∃ e, BusUsed s (p.perform s).state e := by
  by_cases hp : ∃ tx, p = .xfer tx
  · obtain ⟨tx, rfl⟩ := hp
    exact exchange_bus tx s
  · have hne : ∀ tx, p ≠ .xfer tx := fun tx e => hp ⟨tx, e⟩
    rcases perform_grown p s with h | ⟨tx, e, -⟩
    · exact .inl ⟨h.xfers, perform_lastEnd hne s, perform_now_le p s⟩
    · exact absurd e (hne tx)

/-! ### The gap (R245) -/

namespace State

theorem gapsKept_iff {s : State} : s.gapsKept = true ↔
    s.xfers.Pairwise (fun e e' => e.finish + gapNanos ≤ e'.start) ∧
      (∀ e ∈ s.xfers, e.start ≤ e.finish ∧ ∃ l, s.lastEnd = some l ∧ e.finish ≤ l) ∧
      ∀ l, s.lastEnd = some l → l ≤ s.now := by
  cases hend : s.lastEnd <;> simp [gapsKept, hend, and_assoc]

theorem gapsKept_of_quiet {s t : State} (h : BusQuiet s t) (hs : s.gapsKept = true) : t.gapsKept = true := by
  obtain ⟨hgaps, hends, hnow⟩ := gapsKept_iff.mp hs
  refine gapsKept_iff.mpr ?_
  rw [h.xfers, h.lastEnd]
  exact ⟨hgaps, hends, fun l hl => (hnow l hl).trans h.now⟩

/-- A transfer that waited 10 µs from `spi.lastEnd` waited so from the end of every one before, and is itself the one
that ended last. -/
theorem gapsKept_of_used {s t : State} {e : Stamp} (h : BusUsed s t e) (hs : s.gapsKept = true) :
    t.gapsKept = true := by
  obtain ⟨hgaps, hends, -⟩ := gapsKept_iff.mp hs
  have hbefore : ∀ e' ∈ s.xfers, e'.finish + gapNanos ≤ e.start := fun e' he' => by
    obtain ⟨-, l, hl, hle⟩ := hends e' he'
    exact (Nat.add_le_add_right hle _).trans (busReady_of_lastEnd hl ▸ h.start)
  refine gapsKept_iff.mpr ?_
  rw [h.xfers, h.lastEnd]
  refine ⟨List.pairwise_append.mpr ⟨hgaps, List.pairwise_singleton _ _, fun e' he' x hx => ?_⟩,
    fun e' he' => ?_, ?_⟩
  · rw [List.mem_singleton.mp hx]
    exact hbefore e' he'
  · rcases List.mem_append.mp he' with he' | he'
    · have hlater := (Nat.le_add_right _ _).trans (hbefore e' he')
      exact ⟨(hends e' he').1, _, rfl, hlater.trans h.finish⟩
    · rw [List.mem_singleton.mp he']
      exact ⟨h.finish, _, rfl, le_rfl⟩
  · rintro l ⟨⟩
    exact h.now

theorem gapsKept_congr {s t : State} (htrace : t.trace = s.trace) (hend : t.lastEnd = s.lastEnd)
    (hnow : t.now = s.now) (hs : s.gapsKept = true) : t.gapsKept = true :=
  gapsKept_of_quiet ⟨xfers_congr htrace, hend, hnow.ge⟩ hs

end State

theorem perform_gapsKept (p : Prim) {s : State} (hs : s.gapsKept = true) : (p.perform s).state.gapsKept = true := by
  rcases perform_bus p s with h | ⟨e, h⟩
  · exact State.gapsKept_of_quiet h hs
  · exact State.gapsKept_of_used h hs

theorem Prog.run_gapsKept {q : Prog} {s t : State} (ht : (q.run s).state? = some t) (hs : s.gapsKept = true) :
    t.gapsKept = true :=
  run_keeps (P := fun u => u.gapsKept = true) (fun p _ _ hu => perform_gapsKept p hu) q.acts_any hs ht

/-! ### Steps -/

@[simp] theorem State.select_lastEnd (s : State) (r : Request) : (s.select r).lastEnd = s.lastEnd := by rw [select_eq]
@[simp] theorem State.select_now (s : State) (r : Request) : (s.select r).now = s.now := by rw [select_eq]

section
variable {s t : State} {n : Nat} {r : Request} {c : Call}

/-- A step is a run on the trace so far, from the bus and the time as they were. -/
theorem Stepped.run_bus (h : Stepped s n r c t) :
    ∃ (q : Prog) (u v : State), (q.run u).state? = some v ∧
      (u.trace = s.trace ∧ u.lastEnd = s.lastEnd ∧ u.now = s.now) ∧
      t.trace = v.trace ∧ t.lastEnd = v.lastEnd ∧ t.now = v.now := by
  cases h with
  | wholeDone _ _ hrun => exact ⟨_, _, _, by rw [hrun]; rfl, by simp, by simp⟩
  | wholeStalled _ hrun => exact ⟨_, _, _, by rw [hrun]; rfl, by simp, by simp⟩
  | @returned res _ _ => exact ⟨.done res, s.startCall n r, s.startCall n r, rfl, by simp, by simp⟩
  | turnDone _ hrun _ => exact ⟨_, _, _, by rw [hrun]; rfl, by simp, by simp⟩
  | turnStalled _ hrun => exact ⟨_, _, _, by rw [hrun]; rfl, by simp, by simp⟩

theorem Stepped.gapsKept (h : Stepped s n r c t) (hs : s.gapsKept = true) : t.gapsKept = true := by
  obtain ⟨q, u, v, hrun, ⟨hutrace, huend, hunow⟩, hvtrace, hvend, hvnow⟩ := h.run_bus
  exact State.gapsKept_congr hvtrace hvend hvnow
    (Prog.run_gapsKept hrun (State.gapsKept_congr hutrace huend hunow hs))

end

/-- Settles O53: a step is a run of primitives, each of which leaves the bus alone or carries one transfer that waited
for it. -/
theorem stepKeepsGaps : Obligations.StepKeepsGaps := by
  intro s t hs h
  rcases step_cases h with rfl | ⟨n, r, c, -, -, hstep⟩
  · exact hs
  · exact hstep.gapsKept hs

end Sys2Proof.Machine
end

section
/-! What the registers hold after a pulse of the wired reset line (R141, R239, R253; assumptions 17 and 18). -/

namespace Sys2Proof.Machine

/-! ### The register record after a device reset (R239) -/

namespace Memory

/-- The entries of `REG_DEFAULTS` are written one after another. -/
theorem afterDeviceReset_concat (d : List Host.Cell) (e : Host.Cell) (m : List Host.Cell) :
    afterDeviceReset (d ++ [e]) m =
      if e.1 = Reg.version.addr ∨ e.1 = Reg.stat.addr then afterDeviceReset d m
      else write e.1 e.2 (afterDeviceReset d m) := by
  rw [afterDeviceReset, List.foldl_append]
  rfl

theorem read_concat (a : Nat) (d : List Host.Cell) (e : Host.Cell) :
    read a (d ++ [e]) = (read a d).or (if a = e.1 then some e.2 else none) := by
  induction d with
  | nil => simp [read, lookupEntry, eq_comm]
  | cons x d ih =>
    simp only [read, List.cons_append, lookupEntry] at ih ⊢
    split_ifs <;> simp_all

/-- The last entry of a record in canonical form is the only one of its address. -/
theorem wf_concat {d : List Host.Cell} {e : Host.Cell} (h : wf (d ++ [e]) = true) :
    wf d = true ∧ e.1 ≤ lastAddr ∧ read e.1 d = none := by
  obtain ⟨hrising, hlast⟩ := wf_iff.mp h
  simp only [risingEntries, decide_eq_true_eq, List.pairwise_map, List.pairwise_append] at hrising
  obtain ⟨hd, -, hbefore⟩ := hrising
  refine ⟨wf_iff.mpr ⟨by simpa [risingEntries, List.pairwise_map] using hd, fun x hx => hlast x (by simp [hx])⟩,
    hlast e (by simp), Option.eq_none_iff_forall_ne_some.mpr fun v hv => ?_⟩
  exact Nat.lt_irrefl _ (hbefore _ (mem_of_lookupEntry (x := v) hv) e (by simp))

/-- A device reset gives a register its entry of `REG_DEFAULTS`, and leaves it unknown where there is none; VERSION
and STAT keep what they hold (R239; assumption 17). -/
theorem read_afterDeviceReset (a : Nat) {d : List Host.Cell} (m : List Host.Cell) (h : wf d = true) :
    read a (afterDeviceReset d m) =
      if a = Reg.version.addr ∨ a = Reg.stat.addr then read a m else read a d := by
  induction d using List.reverseRecOn with
  | nil => exact read_heldInReset a m
  | append_singleton d e ih =>
    obtain ⟨hd, hlast, hnone⟩ := wf_concat h
    by_cases ha : a = e.1
    · subst ha
      rw [afterDeviceReset_concat, read_concat, hnone, if_pos rfl, Option.none_or]
      by_cases hkept : e.1 = Reg.version.addr ∨ e.1 = Reg.stat.addr
      · rw [if_pos hkept, if_pos hkept, ih hd, if_pos hkept]
      · rw [if_neg hkept, if_neg hkept, read_write, if_pos ⟨rfl, hlast⟩]
    · have hother : read a (afterDeviceReset (d ++ [e]) m) = read a (afterDeviceReset d m) := by
        rw [afterDeviceReset_concat]
        split_ifs
        · rfl
        · rw [read_write, if_neg fun h => ha h.1]
      rw [hother, ih hd, read_concat, if_neg ha, Option.or_none]

end Memory

/-! ### The device's reset line -/

namespace Device

variable (d : Device) (defaults : List Host.Cell)

/-- While the line is high only VERSION and STAT are known (R141; assumption 17). -/
theorem moveReset_regs_rise (t : Nat) (h : d.held = false) :
    (d.moveReset defaults t true).regs = Memory.heldInReset d.regs := by simp [moveReset, h]

/-- The end of a pulse: as after a device reset where it lasted 100 µs, and unknown where it did not (R239, R253). -/
theorem moveReset_regs_fall (t : Nat) {r : Nat} (h : d.held = true) (hrose : d.rose = some r) :
    (d.moveReset defaults t false).regs =
      if r + pulseNanos ≤ t then Memory.afterDeviceReset defaults d.regs else Memory.heldInReset d.regs := by
  simp [moveReset, h, hrose]

theorem moveReset_rose_of_high (t : Nat) (h : d.held = true) : (d.moveReset defaults t true).rose = d.rose := by
  simp [moveReset, h]

/-- A pulse of 100 µs or more, from a low line or one that is high already, is a device reset (R239). -/
theorem read_pulse (hwf : Memory.wf defaults = true) {rise fall : Nat}
    (hlong : rise + pulseNanos ≤ fall) (hheld : d.held = false ∨ ∃ r, d.rose = some r ∧ r ≤ rise) (a : Nat) :
    Memory.read a ((d.moveReset defaults rise true).moveReset defaults fall false).regs =
      if a = Reg.version.addr ∨ a = Reg.stat.addr then Memory.read a d.regs else Memory.read a defaults := by
  have hkept : a = Reg.version.addr ∨ a = Reg.stat.addr →
      Memory.read a (d.moveReset defaults rise true).regs = Memory.read a d.regs := fun ha => by
    cases hd : d.held with
    | false => rw [moveReset_regs_rise _ _ _ hd, Memory.read_heldInReset, if_pos ha]
    | true => rw [moveReset_regs _ _ _ hd]
  have hrose : ∃ r, (d.moveReset defaults rise true).rose = some r ∧ r ≤ rise := by
    cases hd : d.held with
    | false => exact ⟨rise, moveReset_rose_of_low _ _ _ hd, le_rfl⟩
    | true => rw [moveReset_rose_of_high _ _ _ hd]; exact hheld.resolve_left (by simp [hd])
  obtain ⟨r, hr, hle⟩ := hrose
  rw [moveReset_regs_fall _ _ _ (moveReset_held _ _ _ true) hr, if_pos (by omega),
    Memory.read_afterDeviceReset _ _ hwf]
  exact ite_congr rfl hkept fun _ => rfl

end Device

/-! ### Calls -/

/-- The device after a pulse by `reset` or `resetDevice` (R135, R204). -/
theorem exec_pulseReset_device {s : State} {i : Instr} (hfree : s.lockFree = true)
    (hi : i = .reset ∨ (i = .resetDevice ∧ s.ctl.phase = .ready)) (hopen : (s.gpioFor i).isOpen = true)
    (hwired : (s.gpioFor i).isWired s.cfg = true) (hans : s.answersSucceed 2 = true) :
    ∃ t rise fall, exec i s = .next t ∧ s.now ≤ rise ∧ rise + pulseNanos ≤ fall ∧
      t.device = (s.device.moveReset s.cfg.regDefaults rise true).moveReset s.cfg.regDefaults fall false := by
  have hrun := Prog.run_pulseReset_ok (s := s.entered i) (by rwa [s.entered_gpio]) (by rwa [answersSucceed_entered])
  have hdevice := State.pulsed_device (s := s.entered i) (by rwa [s.entered_gpio, cfg_entered])
  obtain ⟨hrise, hhigh, -⟩ := (s.entered i).pulse_times
  rw [s.entered_now] at hrise
  rw [s.entered_device, cfg_entered] at hdevice
  exact ⟨_, _, _, exec_of_run hfree ((runs_pulseReset hi).run hrun rfl), hrise, hhigh,
    (State.afterCall_device _ _ _).trans hdevice⟩

/-- The device after a write of the wired reset line by `setResetPin`: the line moves at the call's end (R136). -/
theorem exec_setResetPin_device {s : State} (b : Bool) (hfree : s.lockFree = true)
    (hopen : s.alone.gpio.isOpen = true) (hwired : s.alone.gpio.isWired s.cfg = true) (hok : s.answer.status = .ok) :
    ∃ t, exec (.setResetPin b) s = .next t ∧ t.device = s.device.moveReset s.cfg.regDefaults t.now b := by
  have hgpio : (s.entered (.setResetPin b)).ctl.gpio = s.alone.gpio := s.entered_gpio _
  have hrun := Prog.run_lineDriven (s := s.entered (.setResetPin b)) (pin := .reset) (b := b) (fun _ => .ret .unit)
    (by rwa [hgpio]) (by rwa [s.entered_answer])
  have hdevice := State.lineDriven_reset_wired (s := s.entered (.setResetPin b)) b (by rwa [hgpio, cfg_entered])
  rw [s.entered_device, cfg_entered] at hdevice
  refine ⟨_, exec_of_run hfree hrun, ?_⟩
  rw [State.afterCall_device, State.afterCall_now, hdevice, State.lineDriven_now]

/-- Settles O27: `reset` and `resetDevice` are a rise and a fall at least 100 µs later, and `setResetPin` is the one or
the other. -/
theorem resetGivesDefaults : Obligations.ResetGivesDefaults := by
  refine fun s hfree hwf => ⟨fun i hi hopen hwired hans hheld => ?_, fun hopen hwired hok =>
    ⟨fun hlow => ?_, fun r hhigh hrose => ?_⟩⟩
  · obtain ⟨t, rise, fall, hexec, hrise, hlong, hdevice⟩ := exec_pulseReset_device hfree hi hopen hwired hans
    refine ⟨t, hexec, fun a => ?_⟩
    rw [hdevice]
    exact s.device.read_pulse _ hwf hlong (hheld.imp_right fun ⟨r, hr, hle⟩ => ⟨r, hr, hle.trans hrise⟩) a
  · obtain ⟨t, hexec, hdevice⟩ := exec_setResetPin_device true hfree hopen hwired hok
    refine ⟨t, hexec, by simp [hdevice], fun a => ?_⟩
    rw [hdevice, Device.moveReset_regs_rise _ _ _ hlow, Memory.read_heldInReset]
  · obtain ⟨t, hexec, hdevice⟩ := exec_setResetPin_device false hfree hopen hwired hok
    refine ⟨t, hexec, by simp [hdevice], fun a => ?_⟩
    rw [hdevice, Device.moveReset_regs_fall _ _ _ hhigh hrose]
    by_cases hlong : r + pulseNanos ≤ t.now
    · rw [if_pos hlong, Memory.read_afterDeviceReset _ _ hwf, if_pos (show r + 100000 ≤ t.now from hlong)]
    · rw [if_neg hlong, Memory.read_heldInReset, if_neg (show ¬r + 100000 ≤ t.now from hlong)]

end Sys2Proof.Machine
end

section
/-! The state after block reset (R8, R58, R68, R205, R237), and the invariants of the steps there. -/

namespace Sys2Proof

theorem legalDefaultTable_iff {fxosc : Nat} {table : List Host.Cell} : legalDefaultTable fxosc table = true ↔
    table.length = 17 ∧ (∀ e ∈ tuningDefaults fxosc, e ∈ table) ∧
      ∀ e ∈ table, e.1 ≤ lastAddr ∧ e.1 ≠ Reg.stat.addr := by
  simp only [legalDefaultTable, Bool.and_eq_true, beq_iff_eq, bne_iff_ne, List.all_eq_true, List.contains_iff_mem,
    decide_eq_true_eq, and_assoc]

/-- The six entries of 434 MHz at the default `FXOSC` (R205). -/
theorem tuningDefaults_default : tuningDefaults Config.defaultFxosc =
    [(0x01, 0xD9), (0x02, 0x00), (0x03, 0x00), (0x04, 0xD9), (0x05, 0x00), (0x06, 0x00)] := by decide

/-- Whatever the open parameters are, R8 allows the configuration of the normative model (assumption 13). -/
theorem Config.legal_normative : Config.normative.legal = true := by
  have hfxosc : legalFxosc Config.normative.fxosc = true := by decide
  have hspeed : 0 < Config.normative.spiSpeedHz := Nat.succ_pos _
  have hregs : legalRegDefaults Config.normative.regDefaults = true := legalRegDefaults_open
  have htable : legalDefaultTable Config.normative.fxosc Config.normative.defaultTable = true :=
    legalDefaultTable_open _
  simp [Config.legal, hfxosc, hspeed, hregs, htable]

namespace Machine

/-- Settles O59: nothing has been sent, returned or issued, no register is known, and nothing is open. -/
theorem invariantsHoldAtReset : Obligations.InvariantsHoldAtReset := by
  have hctl : Controller.afterReset.isWhole = true := rfl
  have hhandles : ∀ cfg, Instance.afterReset.handlesHeld cfg = true := fun _ => rfl
  refine ⟨?_, rfl, rfl, Memory.wf_nil, hctl, ?_, rfl, ?_, rfl⟩
  · exact State.gapsKept_iff.mpr ⟨.nil, nofun, nofun⟩
  · exact State.sessionsWhole_iff.mpr ⟨.inr hctl, nofun⟩
  · exact State.handlesHeld_iff.mpr ⟨.inr (hhandles _), nofun⟩

/-- Settles O60: the fields are the reset state's own, and the configuration is legal, its table some order of the six
fixed entries and 11 others. -/
theorem resetState : Obligations.ResetState := by
  obtain ⟨hlength, htuning, hentries⟩ := legalDefaultTable_iff.mp (legalDefaultTable_open Config.defaultFxosc)
  rw [tuningDefaults_default] at htuning
  exact ⟨rfl, rfl, rfl, rfl, rfl, rfl, rfl, fun _ => rfl, rfl, rfl, rfl, Config.legal_normative, hlength,
    fun e he => (hentries e he).2, htuning⟩

end Machine

end Sys2Proof
end
